-- ==== Sys2Proof/Word.lean ====
section
/-! DEFINITION. The fixed-width words of the block (00_scope.md R8, R10). -/

namespace Sys2Proof

/-- A byte moved by a port access, or an 8-bit mask register: bit i stands for request line i (R8). -/
abbrev Byte := BitVec 8

/-- A local request line of one chip, 0 to 7 (R5 `NLINES_CHIP`); sums of lines wrap modulo 8 (R10). -/
abbrev Line := BitVec 3

/-- A global request line, 0 to 15: line `g & 7` of chip `g >> 3` (R5 `NLINES`, R8). -/
abbrev GlobalLine := BitVec 4

/-- A 16-bit transaction word (30_encoding.md R80). -/
abbrev TWord := BitVec 16

end Sys2Proof
end

