-- ==== Sys2Proof/Syntax.lean ====
section
/-! DEFINITION. The operations offered to the block: one constructor per row of spec/opcode_table.json
(30_encoding.md R80 to R102). -/

namespace Sys2Proof

/-- The two chips of the pair (10_state.md R20): the primary P and the secondary S. -/
inductive Chip where
  | primary
  | secondary
deriving DecidableEq, Repr

/-- The three byte ports of a chip (20_memory.md R61). -/
inductive Port where
  | cmd
  | data
  | elcr
deriving DecidableEq, Repr

/-- The initialisation sequencer's state `init_state` (10_state.md R36): 0 normal, 1 ICW2 expected,
2 ICW3 expected, 3 ICW4 expected. -/
inductive InitState where
  | normal
  | awaitIcw2
  | awaitIcw3
  | awaitIcw4
deriving DecidableEq, Repr

/-- One operation of the block. A command-port row keeps the written byte where the rule reads or records
it (`val`), and `l`, the byte's bits 2:0, where the row is an OCW2 code (R85). -/
inductive Instr where
  /-- ICW1 (R161): command-port write, `val` matches xxx10xxx. -/
  | icw1 (c : Chip) (val : Byte)
  /-- ICW1_LTIM (R162): command-port write, `val` matches xxx11xxx. -/
  | icw1Ltim (c : Chip) (val : Byte)
  /-- OCW3 (R172): command-port write, `val` matches xxx01xxx. -/
  | ocw3 (c : Chip) (val : Byte)
  /-- OCW2_CLR_ROTAEOI (R164), code 0. -/
  | ocw2ClrRotaeoi (c : Chip) (l : Line)
  /-- OCW2_EOI (R165), code 1. -/
  | ocw2Eoi (c : Chip) (l : Line)
  /-- OCW2_NOP (R166), code 2. -/
  | ocw2Nop (c : Chip) (l : Line)
  /-- OCW2_SEOI (R167), code 3. -/
  | ocw2Seoi (c : Chip) (l : Line)
  /-- OCW2_SET_ROTAEOI (R168), code 4. -/
  | ocw2SetRotaeoi (c : Chip) (l : Line)
  /-- OCW2_ROT_EOI (R169), code 5. -/
  | ocw2RotEoi (c : Chip) (l : Line)
  /-- OCW2_SETPRI (R170), code 6. -/
  | ocw2Setpri (c : Chip) (l : Line)
  /-- OCW2_ROT_SEOI (R171), code 7. -/
  | ocw2RotSeoi (c : Chip) (l : Line)
  /-- OCW1 (R191): data-port write with `init_state = 0`. -/
  | ocw1 (c : Chip) (val : Byte)
  /-- ICW2 (R192): data-port write with `init_state = 1`. -/
  | icw2 (c : Chip) (val : Byte)
  /-- ICW3 (R193): data-port write with `init_state = 2`. -/
  | icw3 (c : Chip) (val : Byte)
  /-- ICW4 (R194): data-port write with `init_state = 3`. -/
  | icw4 (c : Chip) (val : Byte)
  /-- WR_ELCR (R198). -/
  | wrElcr (c : Chip) (val : Byte)
  /-- RD_CMD (R195): command-port read with `poll = 0`. -/
  | rdCmd (c : Chip)
  /-- RD_POLL (R196): command-port read with `poll = 1`. -/
  | rdPoll (c : Chip)
  /-- RD_DATA (R197). -/
  | rdData (c : Chip)
  /-- RD_ELCR (R199). -/
  | rdElcr (c : Chip)
  /-- SET_LEVEL (R130). -/
  | setLevel (g : GlobalLine) (level : Bool)
  /-- SET_LEVEL_LINE2 (R132): a device drives global line 2. -/
  | setLevelLine2 (level : Bool)
  /-- INTA (R140). -/
  | inta
  /-- DEVICE_RESET (R251). -/
  | deviceReset
  /-- COLD_RESET (R252). -/
  | coldReset
  /-- SNAP_SAVE (R256). -/
  | snapSave
  /-- SNAP_RESTORE (R257); its payload comes out of band (R96). -/
  | snapRestore
  /-- RESERVED_PORT (R97): a port word with `port = 11`; `rd` is bit 14, `low` bits 10:0. -/
  | reservedPort (rd : Bool) (c : Chip) (low : BitVec 11)
  /-- RESERVED_PIN (R97): a pin word with `pop` 10 or 11; `low` is bits 12:0, its top bit the low bit of `pop`. -/
  | reservedPin (low : BitVec 13)
deriving DecidableEq, Repr

end Sys2Proof
end

