-- ==== Sys2Proof/WellFormed.lean ====
section
/-! DEFINITION. Which terms of `Instr` stand for a transaction word: the fixed bits of a command byte
(30_encoding.md R83) and the line that SET_LEVEL leaves to SET_LEVEL_LINE2 (R102). -/

namespace Sys2Proof

/-- The checks on an operation's operands that its type does not already make. -/
def Instr.wf : Instr → Bool
  | .icw1 _ val => val.getLsbD 4 && !val.getLsbD 3
  | .icw1Ltim _ val => val.getLsbD 4 && val.getLsbD 3
  | .ocw3 _ val => !val.getLsbD 4 && val.getLsbD 3
  | .ocw2ClrRotaeoi _ _ => true
  | .ocw2Eoi _ _ => true
  | .ocw2Nop _ _ => true
  | .ocw2Seoi _ _ => true
  | .ocw2SetRotaeoi _ _ => true
  | .ocw2RotEoi _ _ => true
  | .ocw2Setpri _ _ => true
  | .ocw2RotSeoi _ _ => true
  | .ocw1 _ _ => true
  | .icw2 _ _ => true
  | .icw3 _ _ => true
  | .icw4 _ _ => true
  | .wrElcr _ _ => true
  | .rdCmd _ => true
  | .rdPoll _ => true
  | .rdData _ => true
  | .rdElcr _ => true
  | .setLevel g _ => g != 2
  | .setLevelLine2 _ => true
  | .inta => true
  | .deviceReset => true
  | .coldReset => true
  | .snapSave => true
  | .snapRestore => true
  | .reservedPort _ _ _ => true
  | .reservedPin _ => true

end Sys2Proof
end

