-- ==== Sys2Proof/Decode.lean ====
section
/-! DEFINITION. Decoding a transaction word in the context of the pair's state (30_encoding.md R82, R101),
the encoder, and the opcode table as data (R102). -/

namespace Sys2Proof

/-! ## Context -/

/-- What of one chip's state decoding reads (R101): `init_state` for a data-port write, `poll` for a
command-port read. -/
structure ChipContext where
  initState : InitState
  poll : Bool
deriving DecidableEq, Repr

/-- The decoding context of the pair. -/
structure DecodeContext where
  primary : ChipContext
  secondary : ChipContext
deriving DecidableEq, Repr

def DecodeContext.chip (ctx : DecodeContext) : Chip → ChipContext
  | .primary => ctx.primary
  | .secondary => ctx.secondary

/-- The context right after construction or any reset (10_state.md R45): `init_state = 0`, `poll = 0`. -/
def DecodeContext.afterReset : DecodeContext :=
  { primary := { initState := .normal, poll := false }, secondary := { initState := .normal, poll := false } }

/-! ## Decoding -/

/-- Why a word matches no row of the table (30_encoding.md R97). Each is refused `ReservedEncoding` (R221). -/
inductive DecodeError where
  /-- Bits 10:8 of a port operation are not zero. -/
  | reservedPortBits
  /-- The byte of a port read is not zero. -/
  | readByteNotZero
  /-- A reserved bit of SET_LEVEL (7:1) or INTA (11:0) is not zero. -/
  | reservedPinBits
  /-- Bits 11:0 of a platform operation are not zero. -/
  | reservedPlatformBits
deriving DecidableEq, Repr

/-- The chip of bit 13 of a port word: 0 = P, 1 = S (R81). -/
def chipOfBit (b : Bool) : Chip := if b then .secondary else .primary

/-- Classification of a command-port byte by bits 4 and 3, whatever `init_state` is (R83, R160), and of an
OCW2 by its code, bits 7:5 (R85). -/
def decodeCommandByte (c : Chip) (val : Byte) : Instr :=
  let l : Line := val.extractLsb' 0 3
  if val.getLsbD 4 then
    if val.getLsbD 3 then .icw1Ltim c val else .icw1 c val
  else if val.getLsbD 3 then .ocw3 c val
  else
    match val.getLsbD 7, val.getLsbD 6, val.getLsbD 5 with
    | false, false, false => .ocw2ClrRotaeoi c l
    | false, false, true => .ocw2Eoi c l
    | false, true, false => .ocw2Nop c l
    | false, true, true => .ocw2Seoi c l
    | true, false, false => .ocw2SetRotaeoi c l
    | true, false, true => .ocw2RotEoi c l
    | true, true, false => .ocw2Setpri c l
    | true, true, true => .ocw2RotSeoi c l

/-- Classification of a data-port byte by the chip's `init_state` (R87, R190). -/
def decodeDataByte (st : InitState) (c : Chip) (val : Byte) : Instr :=
  match st with
  | .normal => .ocw1 c val
  | .awaitIcw2 => .icw2 c val
  | .awaitIcw3 => .icw3 c val
  | .awaitIcw4 => .icw4 c val

/-- A port operation, `cls` 00 (write) or 01 (read) (R81, R82, R93). The row RESERVED_PORT takes every word with
`port = 11`, whatever its other bits (R97). -/
def decodePort (ctx : DecodeContext) (t : TWord) : Except DecodeError Instr :=
  let c := chipOfBit (t.getLsbD 13)
  let val : Byte := t.extractLsb' 0 8
  match t.getLsbD 12, t.getLsbD 11 with
  | true, true => .ok (.reservedPort (t.getLsbD 14) c (t.extractLsb' 0 11))
  | portHi, portLo =>
    if t.extractLsb' 8 3 ≠ (0 : BitVec 3) then .error .reservedPortBits
    else if t.getLsbD 14 then
      if val ≠ 0 then .error .readByteNotZero
      else
        match portHi, portLo with
        | false, false => .ok (if (ctx.chip c).poll then .rdPoll c else .rdCmd c)
        | false, true => .ok (.rdData c)
        | true, _ => .ok (.rdElcr c)
    else
      match portHi, portLo with
      | false, false => .ok (decodeCommandByte c val)
      | false, true => .ok (decodeDataByte (ctx.chip c).initState c val)
      | true, _ => .ok (.wrElcr c val)

/-- A pin operation, `cls` 10 (R81, R94, R95, R97). Line 2 is SET_LEVEL_LINE2's, the row with more mask bits
(R102). -/
def decodePin (t : TWord) : Except DecodeError Instr :=
  if t.getLsbD 13 then .ok (.reservedPin (t.extractLsb' 0 13))
  else if t.getLsbD 12 then
    if t.extractLsb' 0 12 ≠ (0 : BitVec 12) then .error .reservedPinBits else .ok .inta
  else if t.extractLsb' 1 7 ≠ (0 : BitVec 7) then .error .reservedPinBits
  else
    let g : GlobalLine := t.extractLsb' 8 4
    .ok (if g = 2 then .setLevelLine2 (t.getLsbD 0) else .setLevel g (t.getLsbD 0))

/-- A platform operation, `cls` 11 (R81, R96). -/
def decodePlatform (t : TWord) : Except DecodeError Instr :=
  if t.extractLsb' 0 12 ≠ (0 : BitVec 12) then .error .reservedPlatformBits
  else
    match t.getLsbD 13, t.getLsbD 12 with
    | false, false => .ok .deviceReset
    | false, true => .ok .coldReset
    | true, false => .ok .snapSave
    | true, true => .ok .snapRestore

/-- The decoder (30_encoding.md R82): total on every 16-bit word, in every context (R102). -/
def decode (ctx : DecodeContext) (t : TWord) : Except DecodeError Instr :=
  if t.getLsbD 15 then
    if t.getLsbD 14 then decodePlatform t else decodePin t
  else decodePort ctx t

/-- The contexts in which a word of this row decodes to this operation (R101): the `context` column of the
table. -/
def Instr.fits (ctx : DecodeContext) : Instr → Bool
  | .ocw1 c _ => (ctx.chip c).initState == .normal
  | .icw2 c _ => (ctx.chip c).initState == .awaitIcw2
  | .icw3 c _ => (ctx.chip c).initState == .awaitIcw3
  | .icw4 c _ => (ctx.chip c).initState == .awaitIcw4
  | .rdCmd c => (ctx.chip c).poll == false
  | .rdPoll c => (ctx.chip c).poll == true
  | .icw1 _ _ => true
  | .icw1Ltim _ _ => true
  | .ocw3 _ _ => true
  | .ocw2ClrRotaeoi _ _ => true
  | .ocw2Eoi _ _ => true
  | .ocw2Nop _ _ => true
  | .ocw2Seoi _ _ => true
  | .ocw2SetRotaeoi _ _ => true
  | .ocw2RotEoi _ _ => true
  | .ocw2Setpri _ _ => true
  | .ocw2RotSeoi _ _ => true
  | .wrElcr _ _ => true
  | .rdData _ => true
  | .rdElcr _ => true
  | .setLevel _ _ => true
  | .setLevelLine2 _ => true
  | .inta => true
  | .deviceReset => true
  | .coldReset => true
  | .snapSave => true
  | .snapRestore => true
  | .reservedPort _ _ _ => true
  | .reservedPin _ => true

/-- The host's question about one row (no context can be given with it): the operation the decoder reads from a
word of at most 16 bits in the context after reset. A word of the rows ICW2, ICW3, ICW4 is then an OCW1, and one of
RD_POLL an RD_CMD, because those rows share their pattern and only the chip's state tells them apart (R102, log 12). -/
def decodeTableWord (nbits w : Nat) : Option Instr :=
  if w % 2 ^ nbits < 2 ^ 16 then
    match decode .afterReset (BitVec.ofNat 16 (w % 2 ^ nbits)) with
    | .ok i => some i
    | .error _ => none
  else none

/-! ## Encoding, from the assembler syntax of 30_encoding.md R103 -/

/-- `chip << 13`. -/
def chipField : Chip → TWord
  | .primary => 0x0000
  | .secondary => 0x2000

/-- `out c.CMD, v`. -/
def outCmd (c : Chip) (v : Byte) : TWord := 0x0000 ||| chipField c ||| v.setWidth 16

/-- `out c.DATA, v`. -/
def outData (c : Chip) (v : Byte) : TWord := 0x0800 ||| chipField c ||| v.setWidth 16

/-- `out c.ELCR, v`. -/
def outElcr (c : Chip) (v : Byte) : TWord := 0x1000 ||| chipField c ||| v.setWidth 16

/-- An OCW2 byte: `code` in bits 7:5, 00 in bits 4:3, `l` in bits 2:0 (R85). -/
def ocw2Byte (code : BitVec 3) (l : Line) : Byte := (code.setWidth 8 <<< 5) ||| l.setWidth 8

/-- The word of a well-formed operation (R103). -/
def encode : Instr → TWord
  | .icw1 c val => outCmd c val
  | .icw1Ltim c val => outCmd c val
  | .ocw3 c val => outCmd c val
  | .ocw2ClrRotaeoi c l => outCmd c (ocw2Byte 0 l)
  | .ocw2Eoi c l => outCmd c (ocw2Byte 1 l)
  | .ocw2Nop c l => outCmd c (ocw2Byte 2 l)
  | .ocw2Seoi c l => outCmd c (ocw2Byte 3 l)
  | .ocw2SetRotaeoi c l => outCmd c (ocw2Byte 4 l)
  | .ocw2RotEoi c l => outCmd c (ocw2Byte 5 l)
  | .ocw2Setpri c l => outCmd c (ocw2Byte 6 l)
  | .ocw2RotSeoi c l => outCmd c (ocw2Byte 7 l)
  | .ocw1 c val => outData c val
  | .icw2 c val => outData c val
  | .icw3 c val => outData c val
  | .icw4 c val => outData c val
  | .wrElcr c val => outElcr c val
  | .rdCmd c => 0x4000 ||| chipField c
  | .rdPoll c => 0x4000 ||| chipField c
  | .rdData c => 0x4800 ||| chipField c
  | .rdElcr c => 0x5000 ||| chipField c
  | .setLevel g level => 0x8000 ||| (g.setWidth 16 <<< 8) ||| (BitVec.ofBool level).setWidth 16
  | .setLevelLine2 level => 0x8200 ||| (BitVec.ofBool level).setWidth 16
  | .inta => 0x9000
  | .deviceReset => 0xC000
  | .coldReset => 0xD000
  | .snapSave => 0xE000
  | .snapRestore => 0xF000
  | .reservedPort rd c low =>
    0x1800 ||| ((BitVec.ofBool rd).setWidth 16 <<< 14) ||| chipField c ||| low.setWidth 16
  | .reservedPin low => 0xA000 ||| low.setWidth 16

/-! ## The opcode table as data (30_encoding.md R102) -/

/-- The `context` column of the table. -/
inductive RowContext where
  | always
  | initState (st : InitState)
  | poll (b : Bool)
deriving DecidableEq, Repr

/-- One row: a word `t` is of the row's pattern when `t &&& mask = pattern`. -/
structure OpcodeRow where
  mnemonic : String
  pattern : TWord
  mask : TWord
  context : RowContext
deriving DecidableEq, Repr

def commandRows : List OpcodeRow :=
  [ ⟨"ICW1", 0x0010, 0xDF18, .always⟩,
    ⟨"ICW1_LTIM", 0x0018, 0xDF18, .always⟩,
    ⟨"OCW3", 0x0008, 0xDF18, .always⟩,
    ⟨"OCW2_CLR_ROTAEOI", 0x0000, 0xDFF8, .always⟩,
    ⟨"OCW2_EOI", 0x0020, 0xDFF8, .always⟩,
    ⟨"OCW2_NOP", 0x0040, 0xDFF8, .always⟩,
    ⟨"OCW2_SEOI", 0x0060, 0xDFF8, .always⟩,
    ⟨"OCW2_SET_ROTAEOI", 0x0080, 0xDFF8, .always⟩,
    ⟨"OCW2_ROT_EOI", 0x00A0, 0xDFF8, .always⟩,
    ⟨"OCW2_SETPRI", 0x00C0, 0xDFF8, .always⟩,
    ⟨"OCW2_ROT_SEOI", 0x00E0, 0xDFF8, .always⟩ ]

def dataRows : List OpcodeRow :=
  [ ⟨"OCW1", 0x0800, 0xDF00, .initState .normal⟩,
    ⟨"ICW2", 0x0800, 0xDF00, .initState .awaitIcw2⟩,
    ⟨"ICW3", 0x0800, 0xDF00, .initState .awaitIcw3⟩,
    ⟨"ICW4", 0x0800, 0xDF00, .initState .awaitIcw4⟩,
    ⟨"WR_ELCR", 0x1000, 0xDF00, .always⟩,
    ⟨"RD_CMD", 0x4000, 0xDFFF, .poll false⟩,
    ⟨"RD_POLL", 0x4000, 0xDFFF, .poll true⟩,
    ⟨"RD_DATA", 0x4800, 0xDFFF, .always⟩,
    ⟨"RD_ELCR", 0x5000, 0xDFFF, .always⟩ ]

def otherRows : List OpcodeRow :=
  [ ⟨"SET_LEVEL", 0x8000, 0xF0FE, .always⟩,
    ⟨"SET_LEVEL_LINE2", 0x8200, 0xFFFE, .always⟩,
    ⟨"INTA", 0x9000, 0xFFFF, .always⟩,
    ⟨"DEVICE_RESET", 0xC000, 0xFFFF, .always⟩,
    ⟨"COLD_RESET", 0xD000, 0xFFFF, .always⟩,
    ⟨"SNAP_SAVE", 0xE000, 0xFFFF, .always⟩,
    ⟨"SNAP_RESTORE", 0xF000, 0xFFFF, .always⟩,
    ⟨"RESERVED_PORT", 0x1800, 0x9800, .always⟩,
    ⟨"RESERVED_PIN", 0xA000, 0xE000, .always⟩ ]

/-- The 29 rows of spec/opcode_table.json. -/
def opcodeTable : List OpcodeRow := commandRows ++ dataRows ++ otherRows

/-- The row a constructor stands for. -/
def Instr.mnemonic : Instr → String
  | .icw1 _ _ => "ICW1"
  | .icw1Ltim _ _ => "ICW1_LTIM"
  | .ocw3 _ _ => "OCW3"
  | .ocw2ClrRotaeoi _ _ => "OCW2_CLR_ROTAEOI"
  | .ocw2Eoi _ _ => "OCW2_EOI"
  | .ocw2Nop _ _ => "OCW2_NOP"
  | .ocw2Seoi _ _ => "OCW2_SEOI"
  | .ocw2SetRotaeoi _ _ => "OCW2_SET_ROTAEOI"
  | .ocw2RotEoi _ _ => "OCW2_ROT_EOI"
  | .ocw2Setpri _ _ => "OCW2_SETPRI"
  | .ocw2RotSeoi _ _ => "OCW2_ROT_SEOI"
  | .ocw1 _ _ => "OCW1"
  | .icw2 _ _ => "ICW2"
  | .icw3 _ _ => "ICW3"
  | .icw4 _ _ => "ICW4"
  | .wrElcr _ _ => "WR_ELCR"
  | .rdCmd _ => "RD_CMD"
  | .rdPoll _ => "RD_POLL"
  | .rdData _ => "RD_DATA"
  | .rdElcr _ => "RD_ELCR"
  | .setLevel _ _ => "SET_LEVEL"
  | .setLevelLine2 _ => "SET_LEVEL_LINE2"
  | .inta => "INTA"
  | .deviceReset => "DEVICE_RESET"
  | .coldReset => "COLD_RESET"
  | .snapSave => "SNAP_SAVE"
  | .snapRestore => "SNAP_RESTORE"
  | .reservedPort _ _ _ => "RESERVED_PORT"
  | .reservedPin _ => "RESERVED_PIN"

/-- A row takes a word in a context: the word has the row's pattern, and the addressed chip (bit 13) is in the
state its context names (R102). -/
def OpcodeRow.takes (ctx : DecodeContext) (t : TWord) (r : OpcodeRow) : Bool :=
  t &&& r.mask == r.pattern &&
    match r.context with
    | .always => true
    | .initState st => (ctx.chip (chipOfBit (t.getLsbD 13))).initState == st
    | .poll b => (ctx.chip (chipOfBit (t.getLsbD 13))).poll == b

/-- The mnemonics of the rows that take a word in a context, in the table's order. -/
def rowsTaking (ctx : DecodeContext) (t : TWord) : List String :=
  (opcodeTable.filter (OpcodeRow.takes ctx t)).map OpcodeRow.mnemonic

end Sys2Proof
end

