-- ==== Sys2Proof/Config.lean ====
section
/-! DEFINITION. The parameters of 00_scope.md R5. Fixed ones carry the source's value. ELCR_MASK_P, ELCR_MASK_S
and PORT_MAP are OPEN in the source and carry the defaults the spec names. -/

namespace Sys2Proof.Config

/-- `CASCADE_LINE` (R5, 10_state.md R20): the primary's input that the secondary's output feeds. -/
def cascadeLine : Line := 2

/-- `SPURIOUS_LINE` (R5, 42_acknowledge.md R143): the line reported when nothing is found. -/
def spuriousLine : Line := 7

/-- `ELCR_MASK_P` (R5, 92_eei_decisions.md D3). PRESUMED: the source gives no value; 0xF8 is the spec's
default, from general knowledge. Unsafe (log 1). Only `State.reset` reads it. -/
def elcrMaskP : Byte := 0xF8

/-- `ELCR_MASK_S` (R5, 92_eei_decisions.md D3). PRESUMED: the source gives no value; 0xDE is the spec's
default, from general knowledge. Unsafe (log 1). Only `State.reset` reads it. -/
def elcrMaskS : Byte := 0xDE

/-- `PORT_MAP` (R5, 20_memory.md R62, 92_eei_decisions.md D2). PRESUMED: the spec's defaults, from general
knowledge. Safe: no rule of the block depends on them, and nothing in the model reads them (log 2). -/
def portMap : Chip → Port → Nat
  | .primary, .cmd => 0x20
  | .primary, .data => 0x21
  | .secondary, .cmd => 0xA0
  | .secondary, .data => 0xA1
  | .primary, .elcr => 0x4D0
  | .secondary, .elcr => 0x4D1

end Sys2Proof.Config
end

