-- ==== Sys2Proof/Machine/State.lean ====
section
/-! DEFINITION. The state of the pair (10_state.md R20 to R41), the reasons a step can stop, and the state after
reset (R45). -/

namespace Sys2Proof.Machine

/-- Why the machine stops. `step` raises it once a fatal misconfiguration is recorded; safe: the spec says the
machine halts. -/
inductive Fault where
  /-- `Fatal(LevelTriggeredICW1)` with the chip written and the byte written (60_exceptions.md R220), the only
  cause. Recorded by ICW1_LTIM (43_command_port.md R162); raised by every step after it. Safe. -/
  | levelTriggeredIcw1 (c : Chip) (val : Byte)
deriving DecidableEq, Repr

/-- Why an operation has no meaning in the model at all. No operation of this model ends so: the spec's own
refusals are `RefuseReason`s, which leave a next state. -/
inductive Refusal where
  /-- An arm of `exec` without a meaning. Nothing raises it: every arm has its meaning. Safe. -/
  | notModelled (mnemonic : String)
deriving DecidableEq, Repr

/-- The named reasons for which the pair refuses an offered operation (60_exceptions.md R221). -/
inductive RefuseReason where
  /-- A transaction word with a reserved field not zero, `port = 11`, a read with a byte, or `pop` 10 or 11. -/
  | reservedEncoding
  /-- SET_LEVEL on global line 2. -/
  | externalCascadeLine
  /-- A port access of a width other than one byte. -/
  | accessWidth
  /-- A snapshot restore that breaks an invariant of 10_state.md R44. -/
  | invalidSnapshot
deriving DecidableEq, Repr

/-- The fields of one chip, and no others (10_state.md R21). -/
structure ChipState where
  /-- request register (R22) -/
  irr : Byte
  /-- edge-detection shadow (R23) -/
  lastIrr : Byte
  /-- mask register (R24) -/
  imr : Byte
  /-- in-service register (R25) -/
  isr : Byte
  /-- rotation offset: the highest-priority line (R26) -/
  priorityAdd : Line
  /-- vector base, low 3 bits 0 (R27) -/
  irqBase : Byte
  /-- a command-port read returns ISR (1) or IRR (0) (R28) -/
  readRegSelect : Bool
  /-- one-shot poll request (R29) -/
  poll : Bool
  /-- special mask mode (R30) -/
  specialMask : Bool
  /-- automatic EOI (R31) -/
  autoEoi : Bool
  /-- rotation at an auto-EOI acknowledge (R32) -/
  rotateOnAutoEoi : Bool
  /-- special fully nested mode (R33) -/
  specialFullyNestedMode : Bool
  /-- ICW1 declared no cascade (R34) -/
  singleMode : Bool
  /-- ICW1 declared an ICW4 (R35) -/
  init4 : Bool
  /-- initialisation sequencer (R36) -/
  initState : InitState
  /-- edge (0) or level (1) per line (R37) -/
  elcr : Byte
  /-- which lines may be level-sensitive; constant (R38) -/
  elcrMask : Byte
  /-- the output line's level (R39) -/
  out : Bool
deriving DecidableEq, Repr

/-- One chip of a snapshot: a number for every field of R21 (70_reset_and_hazards.md R256, R257). The numbers are
unbounded, so that a value out of its field's width can be offered to a restore. -/
structure ChipImage where
  irr : Nat
  lastIrr : Nat
  imr : Nat
  isr : Nat
  priorityAdd : Nat
  irqBase : Nat
  readRegSelect : Nat
  poll : Nat
  specialMask : Nat
  autoEoi : Nat
  rotateOnAutoEoi : Nat
  specialFullyNestedMode : Nat
  singleMode : Nat
  init4 : Nat
  initState : Nat
  elcr : Nat
  elcrMask : Nat
  out : Nat
deriving DecidableEq, Repr

/-- A snapshot of the pair (R256). -/
structure PairImage where
  primary : ChipImage
  secondary : ChipImage
deriving DecidableEq, Repr

/-- What the host observes of a run, in order (10_state.md R40, R46). -/
inductive Event where
  /-- `output_changed(b)` (40_arbitration.md R114) -/
  | outputChanged (b : Bool)
  /-- the byte a port read returned -/
  | portRead (val : Byte)
  /-- the vector INTA returned -/
  | vector (val : Byte)
deriving DecidableEq, Repr

/-- An operation offered to the block (30_encoding.md R80): its word, the number of bytes a port access moves
(20_memory.md R63; other operations do not use it), and the out-of-band payload (R96; SNAP_RESTORE alone reads it). -/
structure Offer where
  word : TWord
  width : Nat
  payload : PairImage
deriving DecidableEq, Repr

/-- The pair. The chips' identities are the two field names (10_state.md R41). -/
structure State where
  /-- P (R20) -/
  primary : ChipState
  /-- S (R20) -/
  secondary : ChipState
  /-- empty, or the record of a fatal misconfiguration (R40) -/
  fault : Option Fault
  /-- the sticky mark of a refusal (R40) -/
  refused : Bool
  /-- notifications and returned values so far, oldest first (R40) -/
  events : List Event
  /-- the model's own: the reasons of the refusals so far, oldest first (log 6) -/
  refusals : List RefuseReason
  /-- the model's own: the snapshots handed to the host so far, oldest first (log 10) -/
  snapshots : List PairImage
  /-- the model's own: the operations offered and not yet performed, oldest first (log 3) -/
  inbox : List Offer
  /-- the model's own: the out-of-band payload of the operation being performed (log 9) -/
  payload : PairImage
deriving DecidableEq, Repr

/-- A chip as construction leaves it (70_reset_and_hazards.md R250, 10_state.md R45), with its fixed ELCR mask. -/
def ChipState.constructed (elcrMask : Byte) : ChipState :=
  { irr := 0, lastIrr := 0, imr := 0, isr := 0, priorityAdd := 0, irqBase := 0, readRegSelect := false,
    poll := false, specialMask := false, autoEoi := false, rotateOnAutoEoi := false,
    specialFullyNestedMode := false, singleMode := false, init4 := false, initState := .normal, elcr := 0,
    elcrMask := elcrMask, out := false }

/-- The image of a chip as constructed. -/
def ChipImage.constructed (elcrMask : Byte) : ChipImage :=
  { irr := 0, lastIrr := 0, imr := 0, isr := 0, priorityAdd := 0, irqBase := 0, readRegSelect := 0, poll := 0,
    specialMask := 0, autoEoi := 0, rotateOnAutoEoi := 0, specialFullyNestedMode := 0, singleMode := 0, init4 := 0,
    initState := 0, elcr := 0, elcrMask := elcrMask.toNat, out := 0 }

/-- The pair as constructed with the given ELCR masks (70_reset_and_hazards.md R250): no fault, no refusal, nothing
emitted. The last four fields are the model's own; DESIGN CHOICE, logs 3, 6, 9, 10. -/
def State.constructed (maskP maskS : Byte) : State :=
  { primary := .constructed maskP
    secondary := .constructed maskS
    fault := none
    refused := false
    events := []
    refusals := []
    snapshots := []
    inbox := []
    payload := { primary := .constructed maskP, secondary := .constructed maskS } }

/-- The machine right after reset: construction with the default ELCR masks of R5 (PRESUMED, unsafe, log 1). -/
def State.reset : State := State.constructed Config.elcrMaskP Config.elcrMaskS

end Sys2Proof.Machine
end

