-- ==== Sys2Proof/Machine/Flags.lean ====
section
/-! DEFINITION. The flags a command word loads (30_encoding.md R84, R86, R90) and the initialisation sequencer
(44_data_elcr_ports.md R200). -/

namespace Sys2Proof.Machine

/-- Every field but `elcr`, `elcr_mask` and `out` at zero (43_command_port.md R161, 70_reset_and_hazards.md R251). -/
def ChipState.zeroed (k : ChipState) : ChipState :=
  { ChipState.constructed k.elcrMask with elcr := k.elcr, out := k.out }

/-- What ICW1 loads after zeroing: `init4` from bit 0, `single_mode` from bit 1, `init_state` 1 (R84, R161). -/
def loadIcw1 (val : Byte) (k : ChipState) : ChipState :=
  { k with init4 := val.getLsbD 0, singleMode := val.getLsbD 1, initState := .awaitIcw2 }

/-- What OCW3 loads: P (bit 2) sets `poll`; RR (1) enables RIS (0); ESMM (6) enables SMM (5) (R86, R172). -/
def loadOcw3 (val : Byte) (k : ChipState) : ChipState :=
  { k with
    poll := if val.getLsbD 2 then true else k.poll
    readRegSelect := if val.getLsbD 1 then val.getLsbD 0 else k.readRegSelect
    specialMask := if val.getLsbD 6 then val.getLsbD 5 else k.specialMask }

/-- What ICW4 loads: SFNM from bit 4, AEOI from bit 1 (R90, R194). -/
def loadIcw4 (val : Byte) (k : ChipState) : ChipState :=
  { k with specialFullyNestedMode := val.getLsbD 4, autoEoi := val.getLsbD 1 }

/-- `init4 ? 3 : 0` (R193). -/
def afterIcw3 (k : ChipState) : InitState := if k.init4 then .awaitIcw4 else .normal

/-- `single_mode ? (init4 ? 3 : 0) : 2` (R192). -/
def afterIcw2 (k : ChipState) : InitState := if k.singleMode then afterIcw3 k else .awaitIcw3

end Sys2Proof.Machine
end

