-- ==== Sys2Proof/Machine/Operands.lean ====
section
/-! DEFINITION. Operand assembly (30_encoding.md R100) and the bit operations of the rules' pseudocode
(00_scope.md R8 to R10). -/

namespace Sys2Proof.Machine

/-- `m[i]` (R9). -/
def bit (m : Byte) (i : Line) : Bool := m.getLsbD i.toNat

/-- The byte with bit `i` alone set. -/
def lineMask (i : Line) : Byte := (1 : Byte) <<< i.toNat

/-- `m[i] <- b`: writes one bit and leaves the others unchanged (R9). -/
def setBit (m : Byte) (i : Line) (b : Bool) : Byte :=
  if b then m ||| lineMask i else m &&& ~~~ lineMask i

/-- The chip of a global line: `g >> 3` (R8, R94). -/
def globalChip (g : GlobalLine) : Chip := if g.getLsbD 3 then .secondary else .primary

/-- The local line of a global line: `g & 7` (R8, R94). -/
def globalLocal (g : GlobalLine) : Line := g.extractLsb' 0 3

/-- ICW2's operand: `val & 0xF8` (R88). -/
def vectorBase (val : Byte) : Byte := val &&& 0xF8

/-- A rotation's target: `(line + 1) & 7` (R100). -/
def rotateAfter (l : Line) : Line := l + 1

/-- The byte stored by an ELCR write: `val & elcr_mask` (R92). -/
def elcrValue (val mask : Byte) : Byte := val &&& mask

/-- `zext_8(r)`: a line as the byte a poll read returns (44_data_elcr_ports.md R196). -/
def lineByte (l : Line) : Byte := l.setWidth 8

/-- `vec`: `(irq_base + r) & 0xFF` (42_acknowledge.md R142). -/
def vectorOf (base : Byte) (r : Line) : Byte := base + lineByte r

end Sys2Proof.Machine
end

