-- ==== Sys2Proof/Machine/Ops.lean ====
section
/-! DEFINITION. The shared operations of the rules: register access, arbitration, output recomputation and the
cascade wire, request lines, acknowledge, poll, the fatal fault, the refusal, reset and snapshots. -/

namespace Sys2Proof.Machine

/-! ## The chips of a state -/

/-- `c`, as a value. -/
def State.chip (s : State) : Chip → ChipState
  | .primary => s.primary
  | .secondary => s.secondary

/-- Every field of chip `c` written at once. -/
def State.setChip (s : State) (c : Chip) (k : ChipState) : State :=
  match c with
  | .primary => { s with primary := k }
  | .secondary => { s with secondary := k }

/-- What the decoder reads of the state (30_encoding.md R101). -/
def State.decodeContext (s : State) : DecodeContext :=
  { primary := { initState := s.primary.initState, poll := s.primary.poll }
    secondary := { initState := s.secondary.initState, poll := s.secondary.poll } }

/-! ## Notifications, returned values, the fault and the refusal -/

/-- One more event (10_state.md R40). -/
def State.emit (s : State) (e : Event) : State := { s with events := s.events ++ [e] }

/-- `raise Fatal(info)` (60_exceptions.md R220): the pair's `fault` is set and no chip field is written
(92_eei_decisions.md D21); `step` performs nothing after it. DEDUCED: the raise is a next state (log 5). -/
def raiseFatal (f : Fault) (s : State) : State := { s with fault := some f }

/-- `refuse(reason)` (60_exceptions.md R221): performs nothing and sets the sticky mark. DEDUCED: the refusal is a
next state, and its reason is kept beside the mark (log 6). -/
def refuse (r : RefuseReason) (s : State) : State := { s with refused := true, refusals := s.refusals ++ [r] }

/-! ## Arbitration (40_arbitration.md) -/

/-- The line at distance `d` from the line of highest priority: `(d + priority_add) & 7` (R110). -/
def lineAt (priorityAdd : Line) (d : Nat) : Line := BitVec.ofNat 3 d + priorityAdd

/-- The first distance of the list whose line is set in `m`, or the sentinel 8. -/
def scanPriority (priorityAdd : Line) (m : Byte) : List Nat → Nat
  | [] => 8
  | d :: ds => if bit m (lineAt priorityAdd d) then d else scanPriority priorityAdd m ds

/-- `priority(c, m)` (R110). -/
def priority (priorityAdd : Line) (m : Byte) : Nat := scanPriority priorityAdd m [0, 1, 2, 3, 4, 5, 6, 7]

/-- The requests that take part in arbitration: `irr & ~imr` (R111). -/
def pendingSet (k : ChipState) : Byte := k.irr &&& ~~~ k.imr

/-- The in-service lines that block (R111): without the masked ones in special mask mode, and without the cascade
line on P in special fully nested mode. -/
def inServiceSet (c : Chip) (k : ChipState) : Byte :=
  let unmasked := if k.specialMask then k.isr &&& ~~~ k.imr else k.isr
  if c = .primary ∧ k.specialFullyNestedMode = true then unmasked &&& ~~~ (0x04 : Byte) else unmasked

/-- `pending_irq(c)` (R111): the line chip `c` presents. -/
def pendingIrq (c : Chip) (k : ChipState) : Option Line :=
  let p := priority k.priorityAdd (pendingSet k)
  if p = 8 then none
  else if p < priority k.priorityAdd (inServiceSet c k) then some (lineAt k.priorityAdd p)
  else none

/-! ## Request lines and output recomputation (40_arbitration.md R112 to R114, 41_request_lines.md R131) -/

/-- The register part of `set_level_local` (R131): a level-sensitive line mirrors the level; an edge-sensitive line
latches a rising edge. -/
def latchLevel (i : Line) (level : Bool) (k : ChipState) : ChipState :=
  if bit k.elcr i then
    { k with irr := setBit k.irr i level, lastIrr := setBit k.lastIrr i level }
  else if level then
    { k with
      irr := if bit k.lastIrr i then k.irr else setBit k.irr i true
      lastIrr := setBit k.lastIrr i true }
  else { k with lastIrr := setBit k.lastIrr i false }

/-- `recompute_output(P)` (R112): a change of `P.out` is notified (R114). -/
def recomputePrimary (s : State) : State :=
  let new := (pendingIrq .primary s.primary).isSome
  let s' := s.setChip .primary { s.primary with out := new }
  if new = s.primary.out then s' else s'.emit (.outputChanged new)

/-- `recompute_output(S)` (R112), which ends with `set_level_local(P, 2, S.out)` (R113): the drive happens at every
recomputation of S. -/
def recomputeSecondary (s : State) : State :=
  let new := (pendingIrq .secondary s.secondary).isSome
  let s' := s.setChip .secondary { s.secondary with out := new }
  recomputePrimary (s'.setChip .primary (latchLevel Config.cascadeLine new s'.primary))

/-- `recompute_output(c)` (R112). -/
def recomputeOutput (c : Chip) (s : State) : State :=
  match c with
  | .primary => recomputePrimary s
  | .secondary => recomputeSecondary s

/-- `set_level_local(c, i, level)` (R131). -/
def setLevelLocal (c : Chip) (i : Line) (level : Bool) (s : State) : State :=
  recomputeOutput c (s.setChip c (latchLevel i level (s.chip c)))

/-- A write of chip `c`'s registers that ends with `recompute_output(c)`, the shape of every command-port and
data-port write (40_arbitration.md R116). -/
def updateAndRecompute (c : Chip) (f : ChipState → ChipState) (s : State) : State :=
  recomputeOutput c (s.setChip c (f (s.chip c)))

/-! ## Acknowledge (42_acknowledge.md) -/

/-- The register part of `intack` (R141). -/
def ackLine (line : Line) (k : ChipState) : ChipState :=
  let k' :=
    if k.autoEoi then
      if k.rotateOnAutoEoi then { k with priorityAdd := rotateAfter line } else k
    else { k with isr := setBit k.isr line true }
  if bit k.elcr line then k' else { k' with irr := setBit k'.irr line false }

/-- `intack(c, line)` (R141). -/
def intack (c : Chip) (line : Line) (s : State) : State := updateAndRecompute c (ackLine line) s

/-- The line an acknowledge takes: the one presented, or line 7 when none is (R143). -/
def ackedLine (c : Chip) (k : ChipState) : Line := (pendingIrq c k).getD Config.spuriousLine

/-- `vec(c, r)` (R142). -/
def vec (k : ChipState) (r : Line) : Byte := vectorOf k.irqBase r

/-- `resolve_vector()` (R140): the vector and the state after the one or two acknowledges, S before P. -/
def resolveVector (s : State) : Byte × State :=
  let r := ackedLine .primary s.primary
  if r = Config.cascadeLine then
    let r2 := ackedLine .secondary s.secondary
    (vec s.secondary r2, intack .primary r (intack .secondary r2 s))
  else (vec s.primary r, intack .primary r s)

/-! ## End of interrupt (43_command_port.md) -/

/-- Specific EOI: `isr[L] <- 0` (R167, R171). -/
def specificEoi (l : Line) (k : ChipState) : ChipState := { k with isr := setBit k.isr l false }

/-- The in-service line of highest priority, which a non-specific EOI clears (R165): the scan of `isr` alone. -/
def highestInService (k : ChipState) : Option Line :=
  let p := priority k.priorityAdd k.isr
  if p = 8 then none else some (lineAt k.priorityAdd p)

/-- Non-specific EOI (R165); nothing when no line is in service. -/
def nonSpecificEoi (k : ChipState) : ChipState :=
  match highestInService k with
  | none => k
  | some line => specificEoi line k

/-- Rotation that makes line `l` the lowest-priority line (40_arbitration.md R115). -/
def rotate (l : Line) (k : ChipState) : ChipState := { k with priorityAdd := rotateAfter l }

/-- Non-specific EOI with rotation (R169); nothing when no line is in service. -/
def nonSpecificEoiRotate (k : ChipState) : ChipState :=
  match highestInService k with
  | none => k
  | some line => rotate line (specificEoi line k)

/-! ## Poll read (44_data_elcr_ports.md R196) -/

/-- `irr[r] <- 0; isr[r] <- 0`. -/
def retireLine (r : Line) (k : ChipState) : ChipState :=
  { k with irr := setBit k.irr r false, isr := setBit k.isr r false }

/-- `poll_read(c)` (R196): a poll of S also retires P's cascade line; a poll of P that finds the cascade line
recomputes nothing (92_eei_decisions.md D16). -/
def pollRead (c : Chip) (s : State) : Byte × State :=
  match pendingIrq c (s.chip c) with
  | none => (lineByte Config.spuriousLine, s)
  | some r =>
    let s1 :=
      match c with
      | .primary => s
      | .secondary => s.setChip .primary (retireLine Config.cascadeLine s.primary)
    let s2 := s1.setChip c (retireLine r (s1.chip c))
    (lineByte r, if c = .primary ∧ r = Config.cascadeLine then s2 else recomputeOutput c s2)

/-! ## Resets (70_reset_and_hazards.md R251, R252) -/

/-- Both chips rewritten, then S and then P recomputed (92_eei_decisions.md D22). -/
def resetWith (f : ChipState → ChipState) (s : State) : State :=
  recomputeOutput .primary
    (recomputeOutput .secondary { s with primary := f s.primary, secondary := f s.secondary })

/-- `elcr <- 0` added to the zeroing (R252). -/
def ChipState.coldZeroed (k : ChipState) : ChipState := { k.zeroed with elcr := 0 }

/-! ## Snapshots (70_reset_and_hazards.md R256, R257) -/

/-- The number of `init_state` (10_state.md R36). -/
def initStateNat : InitState → Nat
  | .normal => 0
  | .awaitIcw2 => 1
  | .awaitIcw3 => 2
  | .awaitIcw4 => 3

/-- The sequencer state of a number, if it fits two bits. -/
def initStateOf : Nat → Option InitState
  | 0 => some .normal
  | 1 => some .awaitIcw2
  | 2 => some .awaitIcw3
  | 3 => some .awaitIcw4
  | _ => none

/-- Every field of a chip, `out` and `elcr_mask` included (R256). -/
def imageOfChip (k : ChipState) : ChipImage :=
  { irr := k.irr.toNat, lastIrr := k.lastIrr.toNat, imr := k.imr.toNat, isr := k.isr.toNat
    priorityAdd := k.priorityAdd.toNat, irqBase := k.irqBase.toNat, readRegSelect := k.readRegSelect.toNat
    poll := k.poll.toNat, specialMask := k.specialMask.toNat, autoEoi := k.autoEoi.toNat
    rotateOnAutoEoi := k.rotateOnAutoEoi.toNat, specialFullyNestedMode := k.specialFullyNestedMode.toNat
    singleMode := k.singleMode.toNat, init4 := k.init4.toNat, initState := initStateNat k.initState
    elcr := k.elcr.toNat, elcrMask := k.elcrMask.toNat, out := k.out.toNat }

/-- The snapshot of the pair (R256). -/
def imageOf (s : State) : PairImage :=
  { primary := imageOfChip s.primary, secondary := imageOfChip s.secondary }

/-- Every number of the image fits its field's width (R21, R257). -/
def imageFits (m : ChipImage) : Bool :=
  decide (m.irr < 256) && decide (m.lastIrr < 256) && decide (m.imr < 256) && decide (m.isr < 256) &&
  decide (m.priorityAdd < 8) && decide (m.irqBase < 256) && decide (m.readRegSelect < 2) && decide (m.poll < 2) &&
  decide (m.specialMask < 2) && decide (m.autoEoi < 2) && decide (m.rotateOnAutoEoi < 2) &&
  decide (m.specialFullyNestedMode < 2) && decide (m.singleMode < 2) && decide (m.init4 < 2) &&
  decide (m.initState < 4) && decide (m.elcr < 256) && decide (m.elcrMask < 256) && decide (m.out < 2)

/-- The chip whose fields an image that fits holds. -/
def chipOfImage (m : ChipImage) : ChipState :=
  { irr := BitVec.ofNat 8 m.irr, lastIrr := BitVec.ofNat 8 m.lastIrr, imr := BitVec.ofNat 8 m.imr
    isr := BitVec.ofNat 8 m.isr, priorityAdd := BitVec.ofNat 3 m.priorityAdd
    irqBase := BitVec.ofNat 8 m.irqBase, readRegSelect := m.readRegSelect == 1, poll := m.poll == 1
    specialMask := m.specialMask == 1, autoEoi := m.autoEoi == 1, rotateOnAutoEoi := m.rotateOnAutoEoi == 1
    specialFullyNestedMode := m.specialFullyNestedMode == 1, singleMode := m.singleMode == 1
    init4 := m.init4 == 1, initState := (initStateOf m.initState).getD .normal
    elcr := BitVec.ofNat 8 m.elcr, elcrMask := BitVec.ofNat 8 m.elcrMask, out := m.out == 1 }

/-- The checks of a restore on one chip (R257): the widths, the constructed `elcr_mask`, `elcr & ~elcr_mask = 0`,
`irq_base & 0x07 = 0`. -/
def restorable (k : ChipState) (m : ChipImage) : Bool :=
  let k' := chipOfImage m
  imageFits m && k'.elcrMask == k.elcrMask && k'.elcr &&& ~~~ k'.elcrMask == 0 && k'.irqBase &&& 0x07 == 0

/-- SNAP_RESTORE (R257): every check before any write; then every field of both chips, with no recomputation and no
notification. -/
def restoreImage (m : PairImage) (s : State) : State :=
  if restorable s.primary m.primary && restorable s.secondary m.secondary then
    { s with primary := chipOfImage m.primary, secondary := chipOfImage m.secondary }
  else refuse .invalidSnapshot s

end Sys2Proof.Machine
end

