-- ==== Sys2Proof/Machine/CommandPort.lean ====
section
/-! DEFINITION. Command-port writes (43_command_port.md): ICW1, OCW2, OCW3. Every one but ICW1_LTIM ends with
`recompute_output(c)` (40_arbitration.md R116). -/

namespace Sys2Proof.Machine

/-- ICW1 (R161): every field but `elcr` and `elcr_mask` zeroed, then the sequencer started. -/
def execIcw1 (c : Chip) (val : Byte) (s : State) : Host.Outcome State Fault Refusal :=
  .next (updateAndRecompute c (fun k => loadIcw1 val k.zeroed) s)

/-- ICW1 with the level-triggered bit (R162): fatal, no chip field is written. -/
def execIcw1Ltim (c : Chip) (val : Byte) (s : State) : Host.Outcome State Fault Refusal :=
  .next (raiseFatal (.levelTriggeredIcw1 c val) s)

/-- OCW3 (R172). -/
def execOcw3 (c : Chip) (val : Byte) (s : State) : Host.Outcome State Fault Refusal :=
  .next (updateAndRecompute c (loadOcw3 val) s)

/-- OCW2 code 0 (R164): `rotate_on_auto_eoi <- 0`; `L` is ignored. -/
def execOcw2ClrRotaeoi (c : Chip) (_l : Line) (s : State) : Host.Outcome State Fault Refusal :=
  .next (updateAndRecompute c (fun k => { k with rotateOnAutoEoi := false }) s)

/-- OCW2 code 1 (R165): non-specific EOI; `L` is ignored. -/
def execOcw2Eoi (c : Chip) (_l : Line) (s : State) : Host.Outcome State Fault Refusal :=
  .next (updateAndRecompute c nonSpecificEoi s)

/-- OCW2 code 2 (R166): no operation but the recomputation. -/
def execOcw2Nop (c : Chip) (_l : Line) (s : State) : Host.Outcome State Fault Refusal :=
  .next (recomputeOutput c s)

/-- OCW2 code 3 (R167): specific EOI of `L`. -/
def execOcw2Seoi (c : Chip) (l : Line) (s : State) : Host.Outcome State Fault Refusal :=
  .next (updateAndRecompute c (specificEoi l) s)

/-- OCW2 code 4 (R168): `rotate_on_auto_eoi <- 1`; `L` is ignored. -/
def execOcw2SetRotaeoi (c : Chip) (_l : Line) (s : State) : Host.Outcome State Fault Refusal :=
  .next (updateAndRecompute c (fun k => { k with rotateOnAutoEoi := true }) s)

/-- OCW2 code 5 (R169): non-specific EOI with rotation; `L` is ignored. -/
def execOcw2RotEoi (c : Chip) (_l : Line) (s : State) : Host.Outcome State Fault Refusal :=
  .next (updateAndRecompute c nonSpecificEoiRotate s)

/-- OCW2 code 6 (R170): `priority_add <- (L + 1) & 7`, no EOI. -/
def execOcw2Setpri (c : Chip) (l : Line) (s : State) : Host.Outcome State Fault Refusal :=
  .next (updateAndRecompute c (rotate l) s)

/-- OCW2 code 7 (R171): specific EOI of `L` and the rotation of code 6. -/
def execOcw2RotSeoi (c : Chip) (l : Line) (s : State) : Host.Outcome State Fault Refusal :=
  .next (updateAndRecompute c (fun k => rotate l (specificEoi l k)) s)

end Sys2Proof.Machine
end

