-- ==== Sys2Proof/Machine/DataPort.lean ====
section
/-! DEFINITION. Data-port and ELCR-port writes (44_data_elcr_ports.md R191 to R194, R198). -/

namespace Sys2Proof.Machine

/-- OCW1 (R191): `imr <- val`. -/
def execOcw1 (c : Chip) (val : Byte) (s : State) : Host.Outcome State Fault Refusal :=
  .next (updateAndRecompute c (fun k => { k with imr := val }) s)

/-- ICW2 (R192): the vector base, and the sequencer's next state. -/
def execIcw2 (c : Chip) (val : Byte) (s : State) : Host.Outcome State Fault Refusal :=
  .next (updateAndRecompute c (fun k => { k with irqBase := vectorBase val, initState := afterIcw2 k }) s)

/-- ICW3 (R193): the byte is ignored; the sequencer advances. -/
def execIcw3 (c : Chip) (_val : Byte) (s : State) : Host.Outcome State Fault Refusal :=
  .next (updateAndRecompute c (fun k => { k with initState := afterIcw3 k }) s)

/-- ICW4 (R194): SFNM and AEOI; the sequence ends. -/
def execIcw4 (c : Chip) (val : Byte) (s : State) : Host.Outcome State Fault Refusal :=
  .next (updateAndRecompute c (fun k => { loadIcw4 val k with initState := .normal }) s)

/-- WR_ELCR (R198): `elcr <- val & elcr_mask`; nothing is recomputed. -/
def execWrElcr (c : Chip) (val : Byte) (s : State) : Host.Outcome State Fault Refusal :=
  .next (s.setChip c { s.chip c with elcr := elcrValue val (s.chip c).elcrMask })

end Sys2Proof.Machine
end

