-- ==== Sys2Proof/Machine/Pin.lean ====
section
/-! DEFINITION. Pin operations: SET_LEVEL (41_request_lines.md), INTA (42_acknowledge.md), and the refused pin
rows (30_encoding.md R97). -/

namespace Sys2Proof.Machine

/-- SET_LEVEL (R130). Its line 2, which the decoder gives to SET_LEVEL_LINE2, is refused here too, as R130 writes it. -/
def execSetLevel (g : GlobalLine) (level : Bool) (s : State) : Host.Outcome State Fault Refusal :=
  .next (if g = 2 then refuse .externalCascadeLine s else setLevelLocal (globalChip g) (globalLocal g) level s)

/-- SET_LEVEL on global line 2 (R132): refused, no field changes. -/
def execSetLevelLine2 (_level : Bool) (s : State) : Host.Outcome State Fault Refusal :=
  .next (refuse .externalCascadeLine s)

/-- INTA (R140): the acknowledges, then the vector returned. -/
def execInta (s : State) : Host.Outcome State Fault Refusal :=
  .next ((resolveVector s).2.emit (.vector (resolveVector s).1))

/-- RESERVED_PIN (R97): refused. -/
def execReservedPin (_low : BitVec 13) (s : State) : Host.Outcome State Fault Refusal :=
  .next (refuse .reservedEncoding s)

end Sys2Proof.Machine
end

