-- ==== Sys2Proof/Machine/Platform.lean ====
section
/-! DEFINITION. Platform operations: resets and snapshots (70_reset_and_hazards.md R251, R252, R256, R257). -/

namespace Sys2Proof.Machine

/-- DEVICE_RESET (R251). -/
def execDeviceReset (s : State) : Host.Outcome State Fault Refusal := .next (resetWith ChipState.zeroed s)

/-- COLD_RESET (R252). -/
def execColdReset (s : State) : Host.Outcome State Fault Refusal := .next (resetWith ChipState.coldZeroed s)

/-- SNAP_SAVE (R256): the image goes to the host; nothing of the pair is written. -/
def execSnapSave (s : State) : Host.Outcome State Fault Refusal :=
  .next { s with snapshots := s.snapshots ++ [imageOf s] }

/-- SNAP_RESTORE (R257) of the out-of-band payload (R96). -/
def execSnapRestore (s : State) : Host.Outcome State Fault Refusal := .next (restoreImage s.payload s)

end Sys2Proof.Machine
end

