-- ==== Sys2Proof/Machine/PortRead.lean ====
section
/-! DEFINITION. Port reads (44_data_elcr_ports.md R195 to R197, R199). The byte read is the operation's last event
(10_state.md R40, log 11). -/

namespace Sys2Proof.Machine

/-- RD_CMD (R195 with `poll = 0`): `isr` if `read_reg_select`, else `irr`. -/
def execRdCmd (c : Chip) (s : State) : Host.Outcome State Fault Refusal :=
  .next (s.emit (.portRead (if (s.chip c).readRegSelect then (s.chip c).isr else (s.chip c).irr)))

/-- RD_POLL (R195 with `poll = 1`): `r <- poll_read(c); c.poll <- 0; return r`. -/
def execRdPoll (c : Chip) (s : State) : Host.Outcome State Fault Refusal :=
  let t := (pollRead c s).2
  .next ((t.setChip c { t.chip c with poll := false }).emit (.portRead (pollRead c s).1))

/-- RD_DATA (R197): `imr`. -/
def execRdData (c : Chip) (s : State) : Host.Outcome State Fault Refusal :=
  .next (s.emit (.portRead (s.chip c).imr))

/-- RD_ELCR (R199): `elcr`. -/
def execRdElcr (c : Chip) (s : State) : Host.Outcome State Fault Refusal :=
  .next (s.emit (.portRead (s.chip c).elcr))

end Sys2Proof.Machine
end

