-- ==== Sys2Proof/Machine/ReservedPort.lean ====
section
/-! DEFINITION. The refused port row RESERVED_PORT (30_encoding.md R97). -/

namespace Sys2Proof.Machine

/-- RESERVED_PORT (R97): an access to `port = 11` is refused. -/
def execReservedPort (_rd : Bool) (_c : Chip) (_low : BitVec 11) (s : State) : Host.Outcome State Fault Refusal :=
  .next (refuse .reservedEncoding s)

end Sys2Proof.Machine
end

