-- ==== Sys2Proof/Machine/Dispatch.lean ====
section
/-! DEFINITION. The dispatch: one arm per constructor of Instr. -/

namespace Sys2Proof.Machine

def exec (i : Instr) (s : State) : Host.Outcome State Fault Refusal :=
  match i with
  | .icw1 c val => Sys2Proof.Machine.execIcw1 c val s
  | .icw1Ltim c val => Sys2Proof.Machine.execIcw1Ltim c val s
  | .ocw3 c val => Sys2Proof.Machine.execOcw3 c val s
  | .ocw2ClrRotaeoi c l => Sys2Proof.Machine.execOcw2ClrRotaeoi c l s
  | .ocw2Eoi c l => Sys2Proof.Machine.execOcw2Eoi c l s
  | .ocw2Nop c l => Sys2Proof.Machine.execOcw2Nop c l s
  | .ocw2Seoi c l => Sys2Proof.Machine.execOcw2Seoi c l s
  | .ocw2SetRotaeoi c l => Sys2Proof.Machine.execOcw2SetRotaeoi c l s
  | .ocw2RotEoi c l => Sys2Proof.Machine.execOcw2RotEoi c l s
  | .ocw2Setpri c l => Sys2Proof.Machine.execOcw2Setpri c l s
  | .ocw2RotSeoi c l => Sys2Proof.Machine.execOcw2RotSeoi c l s
  | .ocw1 c val => Sys2Proof.Machine.execOcw1 c val s
  | .icw2 c val => Sys2Proof.Machine.execIcw2 c val s
  | .icw3 c val => Sys2Proof.Machine.execIcw3 c val s
  | .icw4 c val => Sys2Proof.Machine.execIcw4 c val s
  | .wrElcr c val => Sys2Proof.Machine.execWrElcr c val s
  | .rdCmd c => Sys2Proof.Machine.execRdCmd c s
  | .rdPoll c => Sys2Proof.Machine.execRdPoll c s
  | .rdData c => Sys2Proof.Machine.execRdData c s
  | .rdElcr c => Sys2Proof.Machine.execRdElcr c s
  | .setLevel g level => Sys2Proof.Machine.execSetLevel g level s
  | .setLevelLine2 level => Sys2Proof.Machine.execSetLevelLine2 level s
  | .inta => Sys2Proof.Machine.execInta s
  | .deviceReset => Sys2Proof.Machine.execDeviceReset s
  | .coldReset => Sys2Proof.Machine.execColdReset s
  | .snapSave => Sys2Proof.Machine.execSnapSave s
  | .snapRestore => Sys2Proof.Machine.execSnapRestore s
  | .reservedPort rd c low => Sys2Proof.Machine.execReservedPort rd c low s
  | .reservedPin low => Sys2Proof.Machine.execReservedPin low s

end Sys2Proof.Machine
end

