-- ==== Sys2Proof/Machine/Fetch.lean ====
section
/-! DEFINITION. How an offered operation becomes the operation performed: the width check, the decoding in the pair's
context, and the taking of the offer from the inbox. -/

namespace Sys2Proof.Machine

/-- The word names a port operation: `cls` 00 or 01 (30_encoding.md R81). -/
def isPortWord (t : TWord) : Bool := !t.getLsbD 15

/-- The operation an offer names in state `s`, or the reason for its refusal: a port access moves exactly one byte
(20_memory.md R63), and a word that matches no row is refused (30_encoding.md R97). DESIGN CHOICE: the width is
looked at before the word (log 8). -/
def readOffer (s : State) (o : Offer) : Except RefuseReason Instr :=
  if isPortWord o.word && o.width != 1 then .error .accessWidth
  else
    match decode s.decodeContext o.word with
    | .ok i => .ok i
    | .error _ => .error .reservedEncoding

/-- The offer leaves the inbox, of which `rest` is left, and its payload is presented. -/
def takeOffer (o : Offer) (rest : List Offer) (s : State) : State :=
  { s with inbox := rest, payload := o.payload }

/-- The offer of a bare word: a one-byte access where it is a port word, and the image of the pair itself as the
payload (log 3, log 9). -/
def offerOf (s : State) (t : TWord) : Offer := { word := t, width := 1, payload := imageOf s }

/-- `s` with one more offer, which the next step takes. -/
def offerFirst (o : Offer) (s : State) : State := { s with inbox := o :: s.inbox }

end Sys2Proof.Machine
end

