-- ==== Sys2Proof/Machine/Step.lean ====
section
/-! DEFINITION. One step of the machine: the oldest offered operation, performed whole (00_scope.md R7,
20_memory.md R68). -/

namespace Sys2Proof.Machine

/-- After a fatal misconfiguration no operation is performed (60_exceptions.md R220). With nothing offered the pair
waits: DESIGN CHOICE, the step changes nothing (log 4). Otherwise the oldest offer is taken and performed, or
refused. -/
def step (s : State) : Host.Outcome State Fault Refusal :=
  match s.fault with
  | some f => .fault f
  | none =>
    match s.inbox with
    | [] => .next s
    | o :: rest =>
      match readOffer s o with
      | .ok i => exec i (takeOffer o rest s)
      | .error r => .next (refuse r (takeOffer o rest s))

/-- The operation whose word has the bits `w` (the bits above `nbits` zero), offered so that the next step takes it:
a one-byte access, with a snapshot of `s` itself as the payload (logs 3, 9). -/
def State.withFetchWord (s : State) (nbits w : Nat) : State :=
  offerFirst (offerOf s (BitVec.ofNat 16 (w % 2 ^ nbits))) s

end Sys2Proof.Machine
end

