-- ==== Sys2Proof/Safety.lean ====
section
/-! DEFINITION. What counts as a sound state and a clean run, and the terms in which claims about the pair are
stated: each is written from the rules' prose, line by line, not from the operations of Machine/. -/

namespace Sys2Proof.Machine

/-! ## Invariants (10_state.md R44) -/

/-- R44 for one chip; `priority_add` in 0..7 and `init_state` in 0..3 hold by their types. -/
abbrev ChipInv (k : ChipState) : Prop := k.irqBase &&& 0x07 = 0 ∧ k.elcr &&& ~~~ k.elcrMask = 0

/-- R44 for the pair, and the mark of a refusal agrees with the kept reasons (log 6). -/
abbrev Inv (s : State) : Prop :=
  ChipInv s.primary ∧ ChipInv s.secondary ∧ (s.refused = true ↔ s.refusals ≠ [])

/-- A run that has neither halted nor been refused anything (92_eei_decisions.md D21). -/
abbrev Clean (s : State) : Prop := s.fault = none ∧ s.refused = false

/-! ## Arbitration, line by line (40_arbitration.md R110, R111, R115) -/

/-- The priority distance of a line: 0 for the line `priority_add`, counting upward modulo 8 (R115). -/
def rank (priorityAdd q : Line) : Nat := (q - priorityAdd).toNat

/-- A line takes part in arbitration: requesting and unmasked. -/
def Requesting (k : ChipState) (q : Line) : Prop := bit k.irr q = true ∧ bit k.imr q = false

/-- A line in service blocks: unless it is masked in special mask mode, or it is P's line 2 in special fully nested
mode. -/
def Blocking (c : Chip) (k : ChipState) (q : Line) : Prop :=
  bit k.isr q = true ∧ ¬ (k.specialMask = true ∧ bit k.imr q = true) ∧
    ¬ (c = .primary ∧ k.specialFullyNestedMode = true ∧ q = 2)

/-- Chip `c` presents line `r`: the requesting line of highest priority, and of strictly higher priority than every
blocking line. -/
def Presented (c : Chip) (k : ChipState) (r : Line) : Prop :=
  Requesting k r ∧ (∀ q, Requesting k q → rank k.priorityAdd r ≤ rank k.priorityAdd q) ∧
    ∀ q, Blocking c k q → rank k.priorityAdd r < rank k.priorityAdd q

/-- Chip `c` presents no line. -/
def PresentsNothing (c : Chip) (k : ChipState) : Prop := ∀ r, ¬ Presented c k r

/-- The output level a recomputation gives (R112). -/
def presents (c : Chip) (k : ChipState) : Bool := (pendingIrq c k).isSome

/-! ## What one operation leaves -/

/-- The pair's own fields but `events` are as before. -/
structure SamePair (s t : State) : Prop where
  fault : t.fault = s.fault
  refused : t.refused = s.refused
  refusals : t.refusals = s.refusals
  snapshots : t.snapshots = s.snapshots
  inbox : t.inbox = s.inbox
  payload : t.payload = s.payload

/-- The notifications of one recomputation of P: one when its output changes, none otherwise (R114). -/
def notices (old new : Bool) : List Event := if new = old then [] else [.outputChanged new]

/-- `m'` is `m` with bit `i` written to `b`. -/
def BitWritten (i : Line) (b : Bool) (m m' : Byte) : Prop :=
  ∀ j, bit m' j = if j = i then b else bit m j

/-- Chip `k` after line `i` was given a level (41_request_lines.md R131): `last_irr[i]` is the level; `irr[i]` is the
level when the line is level-sensitive, and otherwise is set by a rising edge and never cleared. -/
structure LineLatched (i : Line) (level : Bool) (k k' : ChipState) : Prop where
  lastIrr : BitWritten i level k.lastIrr k'.lastIrr
  irr : BitWritten i
    (if bit k.elcr i then level else bit k.irr i || (level && !bit k.lastIrr i)) k.irr k'.irr
  rest : k' = { k with irr := k'.irr, lastIrr := k'.lastIrr }

/-- Chip `k` after an acknowledge of `line` (42_acknowledge.md R141): in service unless auto-EOI; the request of an
edge-sensitive line retired; the line made lowest under auto-EOI rotation; nothing else. -/
structure LineAcked (line : Line) (k k' : ChipState) : Prop where
  isr : BitWritten line (if k.autoEoi then bit k.isr line else true) k.isr k'.isr
  irr : BitWritten line (if bit k.elcr line then bit k.irr line else false) k.irr k'.irr
  priorityAdd : k'.priorityAdd = if k.autoEoi && k.rotateOnAutoEoi then line + 1 else k.priorityAdd
  rest : k' = { k with isr := k'.isr, irr := k'.irr, priorityAdd := k'.priorityAdd }

/-- Chip `k` with `irr[r]` and `isr[r]` cleared, as a poll read leaves it (44_data_elcr_ports.md R196). -/
structure LineRetired (r : Line) (k k' : ChipState) : Prop where
  irr : BitWritten r false k.irr k'.irr
  isr : BitWritten r false k.isr k'.isr
  rest : k' = { k with irr := k'.irr, isr := k'.isr }

/-- `t` is `s` after chip `c`'s registers became those of `k` and `c` was recomputed (40_arbitration.md R112 to
R114): `c`'s output follows the arbiter; a recomputation of S gives P's line 2 the level of S's output and
recomputes P; a change of P's output is notified; nothing else changes. -/
structure Recomputed (c : Chip) (k : ChipState) (s t : State) : Prop where
  self : t.chip c = { k with out := presents c k }
  primaryAlone : c = .primary → t.secondary = s.secondary
  cascade : c = .secondary →
    ∃ p, LineLatched 2 (presents .secondary k) s.primary p ∧ t.primary = { p with out := presents .primary p }
  events : t.events = s.events ++ notices s.primary.out t.primary.out
  pair : SamePair s t

/-- A chip at the values of a device reset: every field zero but `elcr` and `elcr_mask` (10_state.md R45). -/
def zeroChip (elcr elcrMask : Byte) : ChipState :=
  { irr := 0, lastIrr := 0, imr := 0, isr := 0, priorityAdd := 0, irqBase := 0, readRegSelect := false,
    poll := false, specialMask := false, autoEoi := false, rotateOnAutoEoi := false,
    specialFullyNestedMode := false, singleMode := false, init4 := false, initState := .normal, elcr := elcr,
    elcrMask := elcrMask, out := false }

/-- `t` is `s` with a refusal marked and nothing else changed (60_exceptions.md R221). -/
def RefusedFor (r : RefuseReason) (s t : State) : Prop :=
  t = { s with refused := true, refusals := s.refusals ++ [r] }

/-- One chip's part of a payload that a restore refuses (70_reset_and_hazards.md R257): a number out of its field's
width, another `elcr_mask`, an `elcr` bit outside the mask, or a low bit of `irq_base`. -/
def BadImage (k : ChipState) (m : ChipImage) : Prop :=
  256 ≤ m.irr ∨ 256 ≤ m.lastIrr ∨ 256 ≤ m.imr ∨ 256 ≤ m.isr ∨ 8 ≤ m.priorityAdd ∨ 256 ≤ m.irqBase ∨
  2 ≤ m.readRegSelect ∨ 2 ≤ m.poll ∨ 2 ≤ m.specialMask ∨ 2 ≤ m.autoEoi ∨ 2 ≤ m.rotateOnAutoEoi ∨
  2 ≤ m.specialFullyNestedMode ∨ 2 ≤ m.singleMode ∨ 2 ≤ m.init4 ∨ 4 ≤ m.initState ∨ 256 ≤ m.elcr ∨
  256 ≤ m.elcrMask ∨ 2 ≤ m.out ∨ m.elcrMask ≠ k.elcrMask.toNat ∨
  (∃ j, m.elcr.testBit j = true ∧ m.elcrMask.testBit j = false) ∨ m.irqBase % 8 ≠ 0

/-! ## Whole-machine terms -/

/-- The operations that rewrite every control field of chip `c`: ICW1 on it, the resets, and a restore. -/
def Reinitialises (i : Instr) (c : Chip) : Prop :=
  (∃ val, i = .icw1 c val) ∨ i = .deviceReset ∨ i = .coldReset ∨ i = .snapRestore

/-- The initialisation sequencer's table (44_data_elcr_ports.md R200): chip `c`'s `init_state` after an operation
other than a restore. -/
def sequencerAfter (i : Instr) (c : Chip) (k : ChipState) : InitState :=
  match i with
  | .icw1 c' _ => if c' = c then .awaitIcw2 else k.initState
  | .icw2 c' _ =>
    if c' = c then
      match k.singleMode, k.init4 with
      | false, _ => .awaitIcw3
      | true, true => .awaitIcw4
      | true, false => .normal
    else k.initState
  | .icw3 c' _ => if c' = c then (if k.init4 then .awaitIcw4 else .normal) else k.initState
  | .icw4 c' _ => if c' = c then .normal else k.initState
  | .deviceReset => .normal
  | .coldReset => .normal
  | _ => k.initState

/-- The operations that recompute S, and so drive P's line 2 (40_arbitration.md R113, the table of R116; that the
table is the spec's own choice is log 17, its exception at a poll read log 18): each write of S's command and data port,
a device's line of S, a poll of S that finds a line, an INTA that takes the cascade line, and the resets. -/
def RecomputesSecondary (i : Instr) (s : State) : Prop :=
  match i with
  | .icw1 c _ | .ocw3 c _ | .ocw1 c _ | .icw2 c _ | .icw3 c _ | .icw4 c _ => c = .secondary
  | .ocw2ClrRotaeoi c _ | .ocw2Eoi c _ | .ocw2Nop c _ | .ocw2Seoi c _ => c = .secondary
  | .ocw2SetRotaeoi c _ | .ocw2RotEoi c _ | .ocw2Setpri c _ | .ocw2RotSeoi c _ => c = .secondary
  | .setLevel g _ => 8 ≤ g.toNat
  | .rdPoll c => c = .secondary ∧ ∃ r, Presented .secondary s.secondary r
  | .inta => Presented .primary s.primary 2
  | .deviceReset | .coldReset => True
  | .icw1Ltim _ _ | .wrElcr _ _ | .rdCmd _ | .rdData _ | .rdElcr _ | .setLevelLine2 _ | .snapSave | .snapRestore
  | .reservedPort _ _ _ | .reservedPin _ => False

/-- An operation from `s` to `t` that may clear bit `j` of chip `c`'s `irr` (60_exceptions.md R226): an acknowledge
(edge-sensitive line), a poll read, the deassertion of a level-sensitive line by a device or, for P's line 2, by S's
output low on the cascade wire, ICW1, a reset, a restore. -/
def MayClearRequest (i : Instr) (s t : State) (c : Chip) (j : Line) : Prop :=
  (i = .inta ∧ bit (s.chip c).elcr j = false) ∨
  i = .rdPoll c ∨ (i = .rdPoll .secondary ∧ c = .primary ∧ j = 2) ∨
  (∃ g, i = .setLevel g false ∧ globalChip g = c ∧ globalLocal g = j ∧ bit (s.chip c).elcr j = true) ∨
  (c = .primary ∧ j = 2 ∧ bit s.primary.elcr 2 = true ∧ RecomputesSecondary i s ∧ t.secondary.out = false) ∨
  Reinitialises i c

/-- An operation from `s` to `t` that may set bit `j` of chip `c`'s `irr` (10_state.md R22): the line is asserted, by
a device or, for P's line 2, by S's output high on the cascade wire (40_arbitration.md R113), and it is level-sensitive
or was low before. -/
def MaySetRequest (i : Instr) (s t : State) (c : Chip) (j : Line) : Prop :=
  ((∃ g, i = .setLevel g true ∧ globalChip g = c ∧ globalLocal g = j) ∨
    (c = .primary ∧ j = 2 ∧ RecomputesSecondary i s ∧ t.secondary.out = true)) ∧
  (bit (s.chip c).elcr j = true ∨ bit (s.chip c).lastIrr j = false)

/-- An operation that may clear bit `j` of chip `c`'s `isr` (60_exceptions.md R226): an EOI code, a poll read, ICW1,
a reset, a restore. -/
def MayEndService (i : Instr) (c : Chip) (j : Line) : Prop :=
  (∃ l, i = .ocw2Eoi c l) ∨ (∃ l, i = .ocw2RotEoi c l) ∨ i = .ocw2Seoi c j ∨ i = .ocw2RotSeoi c j ∨
  i = .rdPoll c ∨ (i = .rdPoll .secondary ∧ c = .primary ∧ j = 2) ∨ Reinitialises i c

/-- The output level left by a sequence of events that starts at a level, if every notification in it is a change. -/
def trackOutput : Bool → List Event → Option Bool
  | b, [] => some b
  | b, .outputChanged b' :: es => if b' = b then none else trackOutput b' es
  | b, .portRead _ :: es => trackOutput b es
  | b, .vector _ :: es => trackOutput b es

/-- The operations one after the other, as long as each answers a next state. -/
def execAll : List Instr → State → State
  | [], s => s
  | i :: is, s =>
    match exec i s with
    | .next t => execAll is t
    | .fault _ => s
    | .refused _ => s

/-- An unmasked request on a global line other than the cascade line. -/
def globalRequest (s : State) (g : GlobalLine) : Bool :=
  g != 2 && bit (s.chip (globalChip g)).irr (globalLocal g) && !bit (s.chip (globalChip g)).imr (globalLocal g)

/-- The global lines from highest to lowest priority when neither chip is rotated (60_exceptions.md R227). -/
def globalOrder : List GlobalLine := [0, 1, 8, 9, 10, 11, 12, 13, 14, 15, 3, 4, 5, 6, 7]

end Sys2Proof.Machine
end

