-- ==== Sys2Proof/Certificates/Slice0/Obligations.lean ====
section
/-! DEFINITION. The statements for the provers. A docstring names the rules a statement rests on; where it rests on a
decision of the spec's own (92_eei_decisions.md Dn) or on a choice of the model (log n), it says so. -/

open Sys2Proof Sys2Proof.Machine

/-! ## Arbitration -/

/-- 40_arbitration.md R110, whole. -/
def Obligations.PriorityIsDistanceToFirstSetLine : Prop :=
  ∀ (pa : Line) (m : Byte),
    (m = 0 → priority pa m = 8) ∧
    (m ≠ 0 → priority pa m < 8 ∧ bit m (BitVec.ofNat 3 (priority pa m + pa.toNat)) = true ∧
      ∀ d, d < priority pa m → bit m (BitVec.ofNat 3 (d + pa.toNat)) = false)

/-- 40_arbitration.md R111, whole. -/
def Obligations.PendingIrqIsThePresentedLine : Prop :=
  ∀ (c : Chip) (k : ChipState) (r : Line), pendingIrq c k = some r ↔ Presented c k r

/-! ## Request lines -/

/-- R130, R131 with R112 to R114: a device's SET_LEVEL on global line `g` latches line `g & 7` of chip `g >> 3` and
recomputes that chip. For a line of S the drive of P's line 2 at every recomputation is the spec's decision D17; that
only P's output is notified is D19. -/
def Obligations.SetLevelLatchesAndRecomputes : Prop :=
  ∀ (g : GlobalLine) (level : Bool) (s : State) (c : Chip) (i : Line), g ≠ 2 →
    c = (if g.toNat < 8 then Chip.primary else Chip.secondary) → i.toNat = g.toNat % 8 →
    ∃ k t, LineLatched i level (s.chip c) k ∧ Recomputed c k s t ∧ exec (.setLevel g level) s = .next t

/-- R132, R221: global line 2 is refused. The spec's decision D18; that a refusal is a next state is log 6. -/
def Obligations.SetLevelOnCascadeLineIsRefused : Prop :=
  ∀ (level : Bool) (s : State), ∃ t, RefusedFor .externalCascadeLine s t ∧
    exec (.setLevelLine2 level) s = .next t ∧ exec (.setLevel 2 level) s = .next t

/-- R131's corner case ("calling twice with the same level is the same as calling once"), an inference of the spec's. -/
def Obligations.SetLevelTwiceIsOnce : Prop :=
  ∀ (g : GlobalLine) (level : Bool) (s t : State), g ≠ 2 →
    exec (.setLevel g level) s = .next t → exec (.setLevel g level) t = .next t

/-- R228, the last sentence, an inference of the spec's: after two device calls on different lines the chips do not
depend on their order. S never does; nor does P when one of the lines is P's. When both are S's, each drives P's line 2,
and by the pseudocode of R112, R113 and R131 the wire may give an edge in one order alone: P does not depend on the order
but for `irr` bit 2 and the output; nor do these where both calls assert and a wire seen high is presented by S, or both
deassert and what S presents the wire was seen to show (log 25). That each of S's recomputations drives the wire is
decision D17 (log 17). -/
def Obligations.RequestLinesCommuteButForTheWire : Prop :=
  ∀ (g h : GlobalLine) (a b : Bool) (s s1 s2 t1 t2 : State),
    g ≠ h → g ≠ 2 → h ≠ 2 →
    exec (.setLevel g a) s = .next s1 → exec (.setLevel h b) s1 = .next t1 →
    exec (.setLevel h b) s = .next s2 → exec (.setLevel g a) s2 = .next t2 →
    t1.secondary = t2.secondary ∧
    (g.toNat < 8 ∨ h.toNat < 8 → t1.primary = t2.primary) ∧
    (t1.primary = { t2.primary with irr := t1.primary.irr, out := t1.primary.out } ∧
      ∀ q, q ≠ 2 → bit t1.primary.irr q = bit t2.primary.irr q) ∧
    (a = true → b = true → (bit s.primary.lastIrr 2 = true → ∃ r, Presented .secondary s.secondary r) →
      t1.primary = t2.primary) ∧
    (a = false → b = false → (∀ r, Presented .secondary s.secondary r → bit s.primary.lastIrr 2 = true) →
      t1.primary = t2.primary)

/-! ## Acknowledge -/

/-- R140, R141, R142 and, for nothing presented, R143: INTA takes a line of P other than the cascade line. That P's
output is not read is the spec's decision D20, the vector's width D25; that the vector follows the notifications is
log 11. -/
def Obligations.IntaAcknowledgesPrimaryLine : Prop :=
  ∀ (s : State) (r : Line), r ≠ 2 →
    (Presented .primary s.primary r ∨ (PresentsNothing .primary s.primary ∧ r = 7)) →
    ∃ k t, LineAcked r s.primary k ∧ Recomputed .primary k s t ∧
      exec .inta s =
        .next { t with events := t.events ++ [.vector (s.primary.irqBase + BitVec.ofNat 8 r.toNat)] }

/-- R140 to R143 for the cascade slot: S is acknowledged (line 7 when it presents nothing) and recomputed, which
drives P's line 2, and then P is acknowledged on line 2. Decisions D17 (log 17), D19, D20, D25 (log 20) and log 11 as
above. -/
def Obligations.IntaAcknowledgesCascadedLine : Prop :=
  ∀ (s : State) (r : Line), Presented .primary s.primary 2 →
    (Presented .secondary s.secondary r ∨ (PresentsNothing .secondary s.secondary ∧ r = 7)) →
    ∃ kS t1 kP t2, LineAcked r s.secondary kS ∧ Recomputed .secondary kS s t1 ∧
      LineAcked 2 t1.primary kP ∧ Recomputed .primary kP t1 t2 ∧
      exec .inta s =
        .next { t2 with events := t2.events ++ [.vector (s.secondary.irqBase + BitVec.ofNat 8 r.toNat)] }

/-- R142, R10: with the low bits of the base zero (R27) the sum does not carry and equals the or of base and line;
an inference of the spec's. -/
def Obligations.VectorIsBaseOrLine : Prop :=
  ∀ (k : ChipState) (r : Line), k.irqBase &&& 0x07 = 0 →
    vec k r = (k.irqBase ||| BitVec.ofNat 8 r.toNat) ∧ (vec k r).toNat = k.irqBase.toNat + r.toNat

/-- R227: with neither chip rotated and nothing in service, INTA takes the first requesting line of the global order
0, 1, 8 to 15, 3 to 7. The premise on P's line 2 says that the wire shows S's requests. An inference of the spec's.
That the vector is the operation's last event is the model's (log 11). -/
def Obligations.GlobalPriorityOrder : Prop :=
  ∀ (s : State) (g : GlobalLine),
    s.primary.priorityAdd = 0 → s.secondary.priorityAdd = 0 → s.primary.isr = 0 → s.secondary.isr = 0 →
    (Requesting s.primary 2 ↔ ∃ q, Requesting s.secondary q) →
    globalOrder.find? (globalRequest s) = some g →
    ∃ t, exec .inta s = .next t ∧
      t.events.getLast? =
        some (.vector ((s.chip (globalChip g)).irqBase + BitVec.ofNat 8 (g.toNat % 8)))

/-! ## Command port -/

/-- R161: ICW1. The bit positions of `init4` and `single_mode` are the spec's decision D11 (log 13), the recomputation
D15 and its drive of the wire D17 (log 17), that only P's output is notified D19 (log 20). -/
def Obligations.Icw1ReinitialisesTheChip : Prop :=
  ∀ (c : Chip) (val : Byte) (s : State), ∃ t,
    Recomputed c
      { zeroChip (s.chip c).elcr (s.chip c).elcrMask with
        init4 := val.getLsbD 0, singleMode := val.getLsbD 1, initState := .awaitIcw2 } s t ∧
    (t.chip c).out = false ∧ exec (.icw1 c val) s = .next t

/-- R162, R220: ICW1 with bit 3 set records the fatal misconfiguration and writes nothing else (decision D21). That
the raise is a next state, and every later step the fault, is log 5. -/
def Obligations.Icw1LtimIsFatal : Prop :=
  ∀ (c : Chip) (val : Byte) (s : State),
    exec (.icw1Ltim c val) s = .next { s with fault := some (.levelTriggeredIcw1 c val) } ∧
    step { s with fault := some (.levelTriggeredIcw1 c val) } = .fault (.levelTriggeredIcw1 c val)

/-- R164, R168 (the reading of "bit2" is decision D13, log 15) and R166 (code 2, whose recomputation is D15, log 17):
the codes that write no more than `rotate_on_auto_eoi`. The wire and the notifications are D17 (log 17), D19
(log 20). -/
def Obligations.Ocw2RotateFlagAndNoOperation : Prop :=
  ∀ (c : Chip) (l : Line) (s : State),
    (∃ t, Recomputed c { s.chip c with rotateOnAutoEoi := false } s t ∧ exec (.ocw2ClrRotaeoi c l) s = .next t) ∧
    (∃ t, Recomputed c { s.chip c with rotateOnAutoEoi := true } s t ∧ exec (.ocw2SetRotaeoi c l) s = .next t) ∧
    (∃ t, Recomputed c (s.chip c) s t ∧ exec (.ocw2Nop c l) s = .next t)

/-- R167, R170, R171: the codes that name a line. R171's rotation without condition is an inference of the spec's;
the wire and the notifications are D17 (log 17), D19 (log 20). -/
def Obligations.Ocw2SpecificCodes : Prop :=
  ∀ (c : Chip) (l : Line) (s : State), ∃ m, BitWritten l false (s.chip c).isr m ∧
    (∃ t, Recomputed c { s.chip c with isr := m } s t ∧ exec (.ocw2Seoi c l) s = .next t) ∧
    (∃ t, Recomputed c { s.chip c with priorityAdd := l + 1 } s t ∧ exec (.ocw2Setpri c l) s = .next t) ∧
    (∃ t, Recomputed c { s.chip c with isr := m, priorityAdd := l + 1 } s t ∧
      exec (.ocw2RotSeoi c l) s = .next t)

/-- R165, R169 with a line in service: the in-service line of highest priority is cleared, and code 5 makes it the
lowest. The wire and the notifications are decisions D17 (log 17), D19 (log 20). -/
def Obligations.Ocw2NonSpecificEoiClearsHighestInService : Prop :=
  ∀ (c : Chip) (l q : Line) (s : State), bit (s.chip c).isr q = true →
    (∀ q', bit (s.chip c).isr q' = true → rank (s.chip c).priorityAdd q ≤ rank (s.chip c).priorityAdd q') →
    ∃ m, BitWritten q false (s.chip c).isr m ∧
      (∃ t, Recomputed c { s.chip c with isr := m } s t ∧ exec (.ocw2Eoi c l) s = .next t) ∧
      (∃ t, Recomputed c { s.chip c with isr := m, priorityAdd := q + 1 } s t ∧
        exec (.ocw2RotEoi c l) s = .next t)

/-- R165, R169 with nothing in service: nothing is cleared and nothing rotates (decision D14, log 16). The wire and the
notifications are D17 (log 17), D19 (log 20). -/
def Obligations.Ocw2NonSpecificEoiOfNothing : Prop :=
  ∀ (c : Chip) (l : Line) (s : State), (s.chip c).isr = 0 →
    (∃ t, Recomputed c (s.chip c) s t ∧ exec (.ocw2Eoi c l) s = .next t) ∧
    (∃ t, Recomputed c (s.chip c) s t ∧ exec (.ocw2RotEoi c l) s = .next t)

/-- R172, R86: OCW3. The bit layout is the spec's decision D12 (log 14), the recomputation D15 and its drive of the wire
D17 (log 17), that only P's output is notified D19 (log 20). -/
def Obligations.Ocw3LoadsTheSelectedFlags : Prop :=
  ∀ (c : Chip) (val : Byte) (s : State), ∃ t,
    Recomputed c
      { s.chip c with
        poll := (s.chip c).poll || val.getLsbD 2
        readRegSelect := bif val.getLsbD 1 then val.getLsbD 0 else (s.chip c).readRegSelect
        specialMask := bif val.getLsbD 6 then val.getLsbD 5 else (s.chip c).specialMask } s t ∧
    exec (.ocw3 c val) s = .next t

/-- R115: OCW2 code 6 makes line L the lowest-priority line and line L + 1 the highest, an inference of the spec's. -/
def Obligations.SetPriorityMakesLineLowest : Prop :=
  ∀ (c : Chip) (l : Line) (s : State), ∃ t, exec (.ocw2Setpri c l) s = .next t ∧
    rank (t.chip c).priorityAdd l = 7 ∧ rank (t.chip c).priorityAdd (l + 1) = 0 ∧
    ∀ q, rank (t.chip c).priorityAdd q ≤ 7

/-- R112: recomputing twice with nothing between writes nothing new and notifies nothing: OCW2 code 2 a second time
changes nothing (the recomputation at code 2 is decision D15). -/
def Obligations.RecomputationIsIdempotent : Prop :=
  ∀ (c : Chip) (l : Line) (s t : State), exec (.ocw2Nop c l) s = .next t → exec (.ocw2Nop c l) t = .next t

/-! ## Data and ELCR ports -/

/-- R191: OCW1. The wire and the notifications are decisions D17 (log 17), D19 (log 20). -/
def Obligations.Ocw1SetsTheMask : Prop :=
  ∀ (c : Chip) (val : Byte) (s : State), ∃ t,
    Recomputed c { s.chip c with imr := val } s t ∧ exec (.ocw1 c val) s = .next t

/-- R192: ICW2. The recomputation is decision D15, its drive of the wire D17 (log 17), that only P's output is notified
D19 (log 20). -/
def Obligations.Icw2SetsTheVectorBase : Prop :=
  ∀ (c : Chip) (val : Byte) (s : State), ∃ base t,
    (∀ j, bit base j = (bit val j && decide (3 ≤ j.toNat))) ∧
    Recomputed c
      { s.chip c with
        irqBase := base
        initState :=
          match (s.chip c).singleMode, (s.chip c).init4 with
          | false, _ => .awaitIcw3
          | true, true => .awaitIcw4
          | true, false => .normal } s t ∧
    exec (.icw2 c val) s = .next t

/-- R193, R194: ICW3 (its byte has no effect) and ICW4. The recomputation is decision D15, its drive of the wire D17
(log 17), that only P's output is notified D19 (log 20). -/
def Obligations.Icw3AndIcw4 : Prop :=
  ∀ (c : Chip) (val : Byte) (s : State),
    (∃ t, Recomputed c { s.chip c with initState := if (s.chip c).init4 then .awaitIcw4 else .normal } s t ∧
      exec (.icw3 c val) s = .next t) ∧
    (∃ t, Recomputed c
        { s.chip c with
          specialFullyNestedMode := val.getLsbD 4, autoEoi := val.getLsbD 1, initState := .normal } s t ∧
      exec (.icw4 c val) s = .next t)

/-- R198, its word among it: `elcr` alone is written, with the bits of the byte that the mask allows. That nothing is
recomputed is the spec's decision D15 (log 17). -/
def Obligations.ElcrWriteStoresTheMaskedByte : Prop :=
  ∀ (c : Chip) (val : Byte) (s : State) (ctx : DecodeContext), ∃ e t,
    decode ctx (BitVec.ofNat 16 (0x1000 + (if c = .primary then 0 else 2 ^ 13) + val.toNat)) =
      .ok (.wrElcr c val) ∧
    (∀ j, bit e j = (bit val j && bit (s.chip c).elcrMask j)) ∧
    t.chip c = { s.chip c with elcr := e } ∧
    (∀ c', c' ≠ c → t.chip c' = s.chip c') ∧ t.events = s.events ∧ SamePair s t ∧
    exec (.wrElcr c val) s = .next t

/-- R197, whole, its word among it: RD_DATA returns `imr` and writes nothing. -/
def Obligations.DataReadReturnsTheMask : Prop :=
  ∀ (c : Chip) (s : State) (ctx : DecodeContext),
    decode ctx (if c = .primary then 0x4800 else 0x6800) = .ok (.rdData c) ∧
    exec (.rdData c) s = .next { s with events := s.events ++ [.portRead (s.chip c).imr] }

/-- R199, whole, its word among it: RD_ELCR returns `elcr` and writes nothing. -/
def Obligations.ElcrReadReturnsElcr : Prop :=
  ∀ (c : Chip) (s : State) (ctx : DecodeContext),
    decode ctx (if c = .primary then 0x5000 else 0x7000) = .ok (.rdElcr c) ∧
    exec (.rdElcr c) s = .next { s with events := s.events ++ [.portRead (s.chip c).elcr] }

/-- R195 without a poll, R28: the selected register is returned, again at every read, and nothing is written. -/
def Obligations.CommandReadReturnsTheSelectedRegister : Prop :=
  ∀ (c : Chip) (s : State),
    ((s.chip c).readRegSelect = true →
      exec (.rdCmd c) s = .next { s with events := s.events ++ [.portRead (s.chip c).isr] }) ∧
    ((s.chip c).readRegSelect = false →
      exec (.rdCmd c) s = .next { s with events := s.events ++ [.portRead (s.chip c).irr] })

/-- R196, R263: a poll read that finds nothing returns 7, clears `poll` and does nothing else. -/
def Obligations.PollReadFindsNothing : Prop :=
  ∀ (c : Chip) (s : State), PresentsNothing c (s.chip c) →
    ∃ t, t.chip c = { s.chip c with poll := false } ∧ (∀ c', c' ≠ c → t.chip c' = s.chip c') ∧
      t.events = s.events ++ [.portRead 7] ∧ SamePair s t ∧ exec (.rdPoll c) s = .next t

/-- R196: a poll of P that finds a line other than 2 retires it and recomputes P. Which polls recompute is the spec's
decision D16 (log 18); that the byte follows the notifications is log 11. -/
def Obligations.PollReadOfPrimary : Prop :=
  ∀ (s : State) (r : Line), Presented .primary s.primary r → r ≠ 2 →
    ∃ k t, LineRetired r s.primary k ∧ Recomputed .primary { k with poll := false } s t ∧
      exec (.rdPoll .primary) s =
        .next { t with events := t.events ++ [.portRead (BitVec.ofNat 8 r.toNat)] }

/-- R196, R264: a poll of P that finds the cascade line retires it and recomputes nothing, so P's output keeps its
old value (decision D16). -/
def Obligations.PollReadOfCascadeLineLeavesOutputStale : Prop :=
  ∀ (s : State), Presented .primary s.primary 2 →
    ∃ k, LineRetired 2 s.primary k ∧
      exec (.rdPoll .primary) s =
        .next { s with primary := { k with poll := false }, events := s.events ++ [.portRead 2] }

/-- R196: a poll of S that finds a line retires it and P's line 2 before S is recomputed, which drives P's line 2. That
a poll of S is recomputed is the spec's decision D16 (log 18; the rejected reading is a poll of S), the drive D17
(log 17), that only P's output is notified D19 (log 20); that the byte follows the notifications is log 11. -/
def Obligations.PollReadOfSecondary : Prop :=
  ∀ (s : State) (r : Line), Presented .secondary s.secondary r →
    ∃ kP kS t, LineRetired 2 s.primary kP ∧ LineRetired r s.secondary kS ∧
      Recomputed .secondary { kS with poll := false } { s with primary := kP } t ∧
      exec (.rdPoll .secondary) s =
        .next { t with events := t.events ++ [.portRead (BitVec.ofNat 8 r.toNat)] }

/-! ## Platform -/

/-- R251, R253: a device reset zeroes both chips but for `elcr` and `elcr_mask`, and notifies a change of P's output
once (decision D22, log 22; that S's is not notified D19, log 20). -/
def Obligations.DeviceResetZeroesBothChips : Prop :=
  ∀ (s : State), ∃ t,
    t.primary = zeroChip s.primary.elcr s.primary.elcrMask ∧
    t.secondary = zeroChip s.secondary.elcr s.secondary.elcrMask ∧
    t.events = s.events ++ notices s.primary.out false ∧ SamePair s t ∧ exec .deviceReset s = .next t

/-- R252, R253: a cold reset zeroes `elcr` too, and so leaves the chips as constructed (R250; decisions D22, D23, logs
22, 23; that S's output is not notified D19, log 20). -/
def Obligations.ColdResetZeroesElcrToo : Prop :=
  ∀ (s : State), ∃ t,
    t.primary = zeroChip 0 s.primary.elcrMask ∧ t.secondary = zeroChip 0 s.secondary.elcrMask ∧
    t.events = s.events ++ notices s.primary.out false ∧ SamePair s t ∧ exec .coldReset s = .next t

/-- R256: SNAP_SAVE hands out a value for every field, from which both chips can be read back, and writes, recomputes
and emits nothing. That the image is appended to `snapshots` is log 10. -/
def Obligations.SnapSaveReturnsEveryField : Prop :=
  ∀ (s : State), ∃ m : PairImage,
    (∀ u : State, imageOf u = m → u.primary = s.primary ∧ u.secondary = s.secondary) ∧ imageOf s = m ∧
    exec .snapSave s = .next { s with snapshots := s.snapshots ++ [m] }

/-- R257 for a payload that passes every check: both chips take its values, `out` included, with no recomputation
and no notification (decision D24). -/
def Obligations.SnapRestoreCopiesEveryField : Prop :=
  ∀ (s : State) (kP kS : ChipState), ChipInv kP → ChipInv kS →
    kP.elcrMask = s.primary.elcrMask → kS.elcrMask = s.secondary.elcrMask →
    s.payload = { primary := imageOfChip kP, secondary := imageOfChip kS } →
    exec .snapRestore s = .next { s with primary := kP, secondary := kS }

/-- R257 for a payload that fails a check: refused, and nothing but the mark is written (decision D24, log 6). -/
def Obligations.SnapRestoreRefusesBadImages : Prop :=
  ∀ (s : State), (BadImage s.primary s.payload.primary ∨ BadImage s.secondary s.payload.secondary) →
    ∃ t, RefusedFor .invalidSnapshot s t ∧ exec .snapRestore s = .next t

/-- R258: a pair restored from a snapshot behaves as the pair the snapshot was taken of, for every later sequence of
operations (other than a restore, whose payload comes from outside): same chips, same events. Decision D24. -/
def Obligations.SnapshotRoundTripPreservesBehaviour : Prop :=
  ∀ (s u : State), Inv s → u.primary.elcrMask = s.primary.elcrMask →
    u.secondary.elcrMask = s.secondary.elcrMask → u.payload = imageOf s →
    ∃ v, exec .snapRestore u = .next v ∧ v.primary = s.primary ∧ v.secondary = s.secondary ∧
      v.events = u.events ∧
      ∀ is : List Instr, (∀ i ∈ is, i ≠ .snapRestore) →
        (execAll is v).primary = (execAll is s).primary ∧ (execAll is v).secondary = (execAll is s).secondary ∧
        ∃ es, (execAll is s).events = s.events ++ es ∧ (execAll is v).events = v.events ++ es

/-! ## Encoding -/

/-- R97, R221: the reserved rows are refused (decision D1, log 6). -/
def Obligations.ReservedRowsAreRefused : Prop :=
  ∀ (rd : Bool) (c : Chip) (low : BitVec 11) (low' : BitVec 13) (s : State), ∃ t,
    RefusedFor .reservedEncoding s t ∧ exec (.reservedPort rd c low) s = .next t ∧
    exec (.reservedPin low') s = .next t

/-- R82, R103: the word of a well-formed operation decodes to it in every context its row names. -/
def Obligations.DecodeOfEncode : Prop :=
  ∀ (ctx : DecodeContext) (i : Instr), i.wf = true → i.fits ctx = true → decode ctx (encode i) = .ok i

/-- R82, R102: what a word decodes to is well formed, fits the context, and has that word. -/
def Obligations.EncodeOfDecode : Prop :=
  ∀ (ctx : DecodeContext) (t : TWord) (i : Instr), decode ctx t = .ok i →
    i.wf = true ∧ i.fits ctx = true ∧ encode i = t

/-- R102: in its context every word matches exactly one row, the one it decodes to, or is refused and matches none;
but for line 2, whose words match SET_LEVEL too (decision D1). -/
def Obligations.DecoderAgreesWithTheTable : Prop :=
  ∀ (ctx : DecodeContext) (t : TWord),
    (∀ i, decode ctx t = .ok i → (∀ b, i ≠ .setLevelLine2 b) → rowsTaking ctx t = [i.mnemonic]) ∧
    (∀ b, decode ctx t = .ok (.setLevelLine2 b) → rowsTaking ctx t = ["SET_LEVEL", "SET_LEVEL_LINE2"]) ∧
    (∀ e, decode ctx t = .error e → rowsTaking ctx t = [])

/-- R103: a few words written out from the table, in the context after reset. -/
def Obligations.SampleWordsDecode : Prop :=
  decode .afterReset 0x2011 = .ok (.icw1 .secondary 0x11) ∧
  decode .afterReset 0x0063 = .ok (.ocw2Seoi .primary 3) ∧
  decode .afterReset 0x08FB = .ok (.ocw1 .primary 0xFB) ∧
  decode .afterReset 0x6000 = .ok (.rdCmd .secondary) ∧
  decode .afterReset 0x8A01 = .ok (.setLevel 10 true) ∧
  decode .afterReset 0x8201 = .ok (.setLevelLine2 true) ∧
  decode .afterReset 0xF000 = .ok .snapRestore ∧
  decode .afterReset 0x4001 = .error .readByteNotZero

/-! ## The step -/

/-- R7, R68, R82: with no fault recorded the step takes the oldest offer (one byte wide if it is a port access), and
is its operation's meaning in that state. The inbox and the payload are the model's own (logs 3, 9). -/
def Obligations.StepRunsTheDecodedOperation : Prop :=
  ∀ (s : State) (o : Offer) (rest : List Offer) (i : Instr), s.fault = none → s.inbox = o :: rest →
    (o.word.getLsbD 15 = false → o.width = 1) → decode s.decodeContext o.word = .ok i →
    step s = exec i { s with inbox := rest, payload := o.payload }

/-- R97, R221: an offer whose word matches no row is taken and refused. Decision D1, log 6. -/
def Obligations.StepRefusesWordsOfNoRow : Prop :=
  ∀ (s : State) (o : Offer) (rest : List Offer) (e : DecodeError), s.fault = none → s.inbox = o :: rest →
    (o.word.getLsbD 15 = false → o.width = 1) → decode s.decodeContext o.word = .error e →
    ∃ t, RefusedFor .reservedEncoding { s with inbox := rest, payload := o.payload } t ∧ step s = .next t

/-- R63, R221: a port access of another width is taken and refused. Decision D5; that the width is looked at before
the word is the model's choice (log 8). -/
def Obligations.StepRefusesOtherWidths : Prop :=
  ∀ (s : State) (o : Offer) (rest : List Offer), s.fault = none → s.inbox = o :: rest →
    o.word.getLsbD 15 = false → o.width ≠ 1 →
    ∃ t, RefusedFor .accessWidth { s with inbox := rest, payload := o.payload } t ∧ step s = .next t

/-- The model's choice (log 4): with no fault and nothing offered the step changes nothing. -/
def Obligations.IdleStepChangesNothing : Prop :=
  ∀ (s : State), s.fault = none → s.inbox = [] → step s = .next s

/-- R220, R222: a step completes unless a fatal misconfiguration is recorded, and then it stops with that fault
(the mapping to the host's outcomes is log 5). -/
def Obligations.StepStopsExactlyWhenFaulted : Prop :=
  ∀ (s : State), (∀ f, s.fault = some f → step s = .fault f) ∧ (s.fault = none → ∃ t, step s = .next t)

/-- R220, R222: only the word of an ICW1 with bit 3 set records a fault, with its chip and byte. -/
def Obligations.OnlyLevelTriggeredIcw1IsFatal : Prop :=
  ∀ (s t : State), step s = .next t →
    t.fault = none ∨
      ∃ c val o rest, s.inbox = o :: rest ∧ o.word = encode (.icw1Ltim c val) ∧ o.width = 1 ∧
        val.getLsbD 4 = true ∧ val.getLsbD 3 = true ∧ t.fault = some (.levelTriggeredIcw1 c val)

/-! ## Invariants and whole-machine rules -/

/-- R44: every step keeps the invariants (from every state that meets them, reachable or not). -/
def Obligations.StepKeepsTheInvariants : Prop :=
  ∀ (s t : State), Inv s → step s = .next t → Inv t

/-- R44, R45, R250: the state after construction meets the invariants, with any ELCR masks, the defaults of reset
among them (their values are PRESUMED, log 1). -/
def Obligations.ConstructionMeetsTheInvariants : Prop :=
  Inv State.reset ∧ ∀ maskP maskS : Byte, Inv (State.constructed maskP maskS) ∧ Clean (State.constructed maskP maskS)

/-- R38, R44: no step changes an `elcr_mask`. -/
def Obligations.ElcrMasksNeverChange : Prop :=
  ∀ (s t : State), step s = .next t →
    t.primary.elcrMask = s.primary.elcrMask ∧ t.secondary.elcrMask = s.secondary.elcrMask

/-- R200: the sequencer moves as its table says, at every operation but a restore. -/
def Obligations.SequencerFollowsItsTable : Prop :=
  ∀ (i : Instr) (s t : State) (c : Chip), i ≠ .snapRestore → exec i s = .next t →
    (t.chip c).initState = sequencerAfter i c (s.chip c)

/-- R114, R46: every notification is a change of P's output, and the notifications of an operation lead from P's
output before it to P's output after it; a restore notifies nothing (R257). Decisions D19, D24. -/
def Obligations.NotificationsTrackPrimaryOutput : Prop :=
  ∀ (i : Instr) (s t : State), exec i s = .next t →
    (i ≠ .snapRestore →
      ∃ es, t.events = s.events ++ es ∧ trackOutput s.primary.out es = some t.primary.out) ∧
    (i = .snapRestore → t.events = s.events)

/-- R258, R21, R40: what an operation does to the chips, and what it emits, depends on the chips alone (and, for a
restore, on its payload): not on what was emitted, refused, saved or offered before. -/
def Obligations.ChipsDetermineBehaviour : Prop :=
  ∀ (i : Instr) (s u t : State), s.primary = u.primary → s.secondary = u.secondary →
    (i = .snapRestore → s.payload = u.payload) → exec i s = .next t →
    ∃ v es rs ss, exec i u = .next v ∧ v.primary = t.primary ∧ v.secondary = t.secondary ∧
      t.events = s.events ++ es ∧ v.events = u.events ++ es ∧
      t.refusals = s.refusals ++ rs ∧ v.refusals = u.refusals ++ rs ∧
      t.snapshots = s.snapshots ++ ss ∧ v.snapshots = u.snapshots ++ ss

/-- R40, R221: the mark of a refusal is never cleared, and nothing that the host has observed is taken back. -/
def Obligations.MarksAndObservationsArePermanent : Prop :=
  ∀ (s t : State), step s = .next t →
    (s.refused = true → t.refused = true) ∧ s.events <+: t.events ∧ s.refusals <+: t.refusals ∧
      s.snapshots <+: t.snapshots

/-- R25: an `isr` bit is set by INTA alone (a restore apart). -/
def Obligations.OnlyIntaPutsALineInService : Prop :=
  ∀ (i : Instr) (s t : State) (c : Chip) (j : Line), exec i s = .next t → i ≠ .inta → i ≠ .snapRestore →
    bit (t.chip c).isr j = true → bit (s.chip c).isr j = true

/-- R226: an `isr` bit is cleared by the EOI codes, a poll read, ICW1, the resets (and a restore) alone. -/
def Obligations.ServiceEndsOnlyByItsOperations : Prop :=
  ∀ (i : Instr) (s t : State) (c : Chip) (j : Line), exec i s = .next t → bit (s.chip c).isr j = true →
    bit (t.chip c).isr j = false → MayEndService i c j

/-- R226: an `irr` bit is cleared by the operations it names (and a restore) alone. For P's line 2 the device is the
cascade wire: its deassertion is a recomputation of S that leaves S's output low (R113; decisions D15 to D17, logs 17,
18). -/
def Obligations.RequestsAreClearedOnlyByTheirOperations : Prop :=
  ∀ (i : Instr) (s t : State) (c : Chip) (j : Line), exec i s = .next t → bit (s.chip c).irr j = true →
    bit (t.chip c).irr j = false → MayClearRequest i s t c j

/-- R22: an `irr` bit is set by a request line alone (a restore apart): a device's assertion of that line or, on P's
line 2, a recomputation of S that leaves S's output high (R113; decisions D15 to D17, logs 17, 18); and the line is
level-sensitive or was low before. -/
def Obligations.RequestsAreSetOnlyByTheirLine : Prop :=
  ∀ (i : Instr) (s t : State) (c : Chip) (j : Line), exec i s = .next t → i ≠ .snapRestore →
    bit (s.chip c).irr j = false → bit (t.chip c).irr j = true → MaySetRequest i s t c j

/-- R24, R26 to R35, R37: each control field of a chip is written by its own operations alone, and by those that
re-initialise the chip; `elcr` survives ICW1 and a device reset. -/
def Obligations.ControlFieldsHaveOnlyTheirWriters : Prop :=
  ∀ (i : Instr) (s t : State) (c : Chip), exec i s = .next t →
    ((∀ val, i ≠ .wrElcr c val) → i ≠ .coldReset → i ≠ .snapRestore → (t.chip c).elcr = (s.chip c).elcr) ∧
    (¬ Reinitialises i c →
      ((∀ val, i ≠ .ocw1 c val) → (t.chip c).imr = (s.chip c).imr) ∧
      ((∀ val, i ≠ .icw2 c val) → (t.chip c).irqBase = (s.chip c).irqBase) ∧
      ((∀ val, i ≠ .ocw3 c val) →
        (t.chip c).readRegSelect = (s.chip c).readRegSelect ∧ (t.chip c).specialMask = (s.chip c).specialMask) ∧
      ((∀ val, i ≠ .ocw3 c val) → i ≠ .rdPoll c → (t.chip c).poll = (s.chip c).poll) ∧
      ((∀ val, i ≠ .icw4 c val) →
        (t.chip c).autoEoi = (s.chip c).autoEoi ∧
        (t.chip c).specialFullyNestedMode = (s.chip c).specialFullyNestedMode) ∧
      ((∀ l, i ≠ .ocw2ClrRotaeoi c l) → (∀ l, i ≠ .ocw2SetRotaeoi c l) →
        (t.chip c).rotateOnAutoEoi = (s.chip c).rotateOnAutoEoi) ∧
      (t.chip c).singleMode = (s.chip c).singleMode ∧ (t.chip c).init4 = (s.chip c).init4 ∧
      ((∀ l, i ≠ .ocw2RotEoi c l) → (∀ l, i ≠ .ocw2Setpri c l) → (∀ l, i ≠ .ocw2RotSeoi c l) → i ≠ .inta →
        (t.chip c).priorityAdd = (s.chip c).priorityAdd))
end

