-- ==== Sys2Proof/Laws/Bits.lean ====
section
/-! SUPPORT. The bit operations of a mask register. -/

namespace Sys2Proof.Machine

theorem bit_lineMask (i j : Line) : bit (lineMask i) j = decide (j = i) := by
  revert i j; decide

/-- `m[i] <- b` writes bit `i` and leaves the others unchanged (00_scope.md R9). -/
@[simp] theorem bit_setBit (m : Byte) (i j : Line) (b : Bool) :
    bit (setBit m i b) j = if j = i then b else bit m j := by
  have hj : j.toNat < 8 := j.isLt
  have h := bit_lineMask i j
  unfold bit at h ⊢
  unfold setBit
  by_cases hij : j = i <;> cases b <;> simp_all

theorem bitWritten_setBit (m : Byte) (i : Line) (b : Bool) : BitWritten i b m (setBit m i b) :=
  fun j => bit_setBit m i j b

/-- Two mask registers with the same bits are equal. -/
theorem byte_ext (m m' : Byte) (h : ∀ j, bit m j = bit m' j) : m = m' := by
  apply BitVec.eq_of_getLsbD_eq
  intro n hn
  have := h (BitVec.ofNat 3 n)
  simpa [bit, BitVec.toNat_ofNat, Nat.mod_eq_of_lt (show n < 8 from hn)] using this

@[simp] theorem bit_and (m m' : Byte) (j : Line) : bit (m &&& m') j = (bit m j && bit m' j) := by
  simp [bit, BitVec.getLsbD_and]

@[simp] theorem bit_not (m : Byte) (j : Line) : bit (~~~ m) j = !bit m j := by
  have hj : j.toNat < 8 := j.isLt
  simp [bit, hj]

@[simp] theorem bit_zero (j : Line) : bit 0#8 j = false := by simp [bit]

/-- The constant `0x04` of R111 is P's line 2. -/
theorem bit_cascadeMask (j : Line) : bit 4#8 j = decide (j = 2) := by revert j; decide

theorem bit_not_cascadeMask (j : Line) : bit (~~~ (0x04 : Byte)) j = !decide (j = 2) := by revert j; decide

theorem setBit_self (m : Byte) (i : Line) : setBit m i (bit m i) = m :=
  byte_ext _ _ fun j => by by_cases h : j = i <;> simp [h]

theorem setBit_comm (m : Byte) (i j : Line) (a b : Bool) (h : i ≠ j) :
    setBit (setBit m i a) j b = setBit (setBit m j b) i a :=
  byte_ext _ _ fun q => by
    by_cases hi : q = i <;> by_cases hj : q = j <;> simp_all

@[simp] theorem setBit_setBit (m : Byte) (i : Line) (a b : Bool) : setBit (setBit m i a) i b = setBit m i b :=
  byte_ext _ _ fun q => by by_cases h : q = i <;> simp [h]

end Sys2Proof.Machine
end

