-- ==== Sys2Proof/Laws/State.lean ====
section
/-! SUPPORT. One lemma per field of State per update, so that no proof unfolds a record update. -/

namespace Sys2Proof.Machine

variable (s : State)

@[simp] theorem State.chip_primary : s.chip .primary = s.primary := rfl
@[simp] theorem State.chip_secondary : s.chip .secondary = s.secondary := rfl

@[simp] theorem setPrimary_primary (k : ChipState) : (s.setChip .primary k).primary = k := rfl
@[simp] theorem setPrimary_secondary (k : ChipState) : (s.setChip .primary k).secondary = s.secondary := rfl
@[simp] theorem setPrimary_fault (k : ChipState) : (s.setChip .primary k).fault = s.fault := rfl
@[simp] theorem setPrimary_refused (k : ChipState) : (s.setChip .primary k).refused = s.refused := rfl
@[simp] theorem setPrimary_events (k : ChipState) : (s.setChip .primary k).events = s.events := rfl
@[simp] theorem setPrimary_refusals (k : ChipState) : (s.setChip .primary k).refusals = s.refusals := rfl
@[simp] theorem setPrimary_snapshots (k : ChipState) : (s.setChip .primary k).snapshots = s.snapshots := rfl
@[simp] theorem setPrimary_inbox (k : ChipState) : (s.setChip .primary k).inbox = s.inbox := rfl
@[simp] theorem setPrimary_payload (k : ChipState) : (s.setChip .primary k).payload = s.payload := rfl

@[simp] theorem setSecondary_primary (k : ChipState) : (s.setChip .secondary k).primary = s.primary := rfl
@[simp] theorem setSecondary_secondary (k : ChipState) : (s.setChip .secondary k).secondary = k := rfl
@[simp] theorem setSecondary_fault (k : ChipState) : (s.setChip .secondary k).fault = s.fault := rfl
@[simp] theorem setSecondary_refused (k : ChipState) : (s.setChip .secondary k).refused = s.refused := rfl
@[simp] theorem setSecondary_events (k : ChipState) : (s.setChip .secondary k).events = s.events := rfl
@[simp] theorem setSecondary_refusals (k : ChipState) : (s.setChip .secondary k).refusals = s.refusals := rfl
@[simp] theorem setSecondary_snapshots (k : ChipState) : (s.setChip .secondary k).snapshots = s.snapshots := rfl
@[simp] theorem setSecondary_inbox (k : ChipState) : (s.setChip .secondary k).inbox = s.inbox := rfl
@[simp] theorem setSecondary_payload (k : ChipState) : (s.setChip .secondary k).payload = s.payload := rfl

@[simp] theorem emit_primary (e : Event) : (s.emit e).primary = s.primary := rfl
@[simp] theorem emit_secondary (e : Event) : (s.emit e).secondary = s.secondary := rfl
@[simp] theorem emit_fault (e : Event) : (s.emit e).fault = s.fault := rfl
@[simp] theorem emit_refused (e : Event) : (s.emit e).refused = s.refused := rfl
@[simp] theorem emit_events (e : Event) : (s.emit e).events = s.events ++ [e] := rfl
@[simp] theorem emit_refusals (e : Event) : (s.emit e).refusals = s.refusals := rfl
@[simp] theorem emit_snapshots (e : Event) : (s.emit e).snapshots = s.snapshots := rfl
@[simp] theorem emit_inbox (e : Event) : (s.emit e).inbox = s.inbox := rfl
@[simp] theorem emit_payload (e : Event) : (s.emit e).payload = s.payload := rfl

@[simp] theorem raiseFatal_primary (f : Fault) : (raiseFatal f s).primary = s.primary := rfl
@[simp] theorem raiseFatal_secondary (f : Fault) : (raiseFatal f s).secondary = s.secondary := rfl
@[simp] theorem raiseFatal_fault (f : Fault) : (raiseFatal f s).fault = some f := rfl
@[simp] theorem raiseFatal_refused (f : Fault) : (raiseFatal f s).refused = s.refused := rfl
@[simp] theorem raiseFatal_events (f : Fault) : (raiseFatal f s).events = s.events := rfl
@[simp] theorem raiseFatal_refusals (f : Fault) : (raiseFatal f s).refusals = s.refusals := rfl
@[simp] theorem raiseFatal_snapshots (f : Fault) : (raiseFatal f s).snapshots = s.snapshots := rfl
@[simp] theorem raiseFatal_inbox (f : Fault) : (raiseFatal f s).inbox = s.inbox := rfl
@[simp] theorem raiseFatal_payload (f : Fault) : (raiseFatal f s).payload = s.payload := rfl

@[simp] theorem refuse_primary (r : RefuseReason) : (refuse r s).primary = s.primary := rfl
@[simp] theorem refuse_secondary (r : RefuseReason) : (refuse r s).secondary = s.secondary := rfl
@[simp] theorem refuse_fault (r : RefuseReason) : (refuse r s).fault = s.fault := rfl
@[simp] theorem refuse_refused (r : RefuseReason) : (refuse r s).refused = true := rfl
@[simp] theorem refuse_events (r : RefuseReason) : (refuse r s).events = s.events := rfl
@[simp] theorem refuse_refusals (r : RefuseReason) : (refuse r s).refusals = s.refusals ++ [r] := rfl
@[simp] theorem refuse_snapshots (r : RefuseReason) : (refuse r s).snapshots = s.snapshots := rfl
@[simp] theorem refuse_inbox (r : RefuseReason) : (refuse r s).inbox = s.inbox := rfl
@[simp] theorem refuse_payload (r : RefuseReason) : (refuse r s).payload = s.payload := rfl

@[simp] theorem takeOffer_primary (o : Offer) (rest : List Offer) : (takeOffer o rest s).primary = s.primary := rfl
@[simp] theorem takeOffer_secondary (o : Offer) (rest : List Offer) : (takeOffer o rest s).secondary = s.secondary := rfl
@[simp] theorem takeOffer_fault (o : Offer) (rest : List Offer) : (takeOffer o rest s).fault = s.fault := rfl
@[simp] theorem takeOffer_refused (o : Offer) (rest : List Offer) : (takeOffer o rest s).refused = s.refused := rfl
@[simp] theorem takeOffer_events (o : Offer) (rest : List Offer) : (takeOffer o rest s).events = s.events := rfl
@[simp] theorem takeOffer_refusals (o : Offer) (rest : List Offer) : (takeOffer o rest s).refusals = s.refusals := rfl
@[simp] theorem takeOffer_snapshots (o : Offer) (rest : List Offer) : (takeOffer o rest s).snapshots = s.snapshots := rfl
@[simp] theorem takeOffer_inbox (o : Offer) (rest : List Offer) : (takeOffer o rest s).inbox = rest := rfl
@[simp] theorem takeOffer_payload (o : Offer) (rest : List Offer) : (takeOffer o rest s).payload = o.payload := rfl

@[simp] theorem offerFirst_primary (o : Offer) : (offerFirst o s).primary = s.primary := rfl
@[simp] theorem offerFirst_secondary (o : Offer) : (offerFirst o s).secondary = s.secondary := rfl
@[simp] theorem offerFirst_fault (o : Offer) : (offerFirst o s).fault = s.fault := rfl
@[simp] theorem offerFirst_refused (o : Offer) : (offerFirst o s).refused = s.refused := rfl
@[simp] theorem offerFirst_events (o : Offer) : (offerFirst o s).events = s.events := rfl
@[simp] theorem offerFirst_refusals (o : Offer) : (offerFirst o s).refusals = s.refusals := rfl
@[simp] theorem offerFirst_snapshots (o : Offer) : (offerFirst o s).snapshots = s.snapshots := rfl
@[simp] theorem offerFirst_inbox (o : Offer) : (offerFirst o s).inbox = o :: s.inbox := rfl
@[simp] theorem offerFirst_payload (o : Offer) : (offerFirst o s).payload = s.payload := rfl

@[simp] theorem setChip_chip (c : Chip) (k : ChipState) : (s.setChip c k).chip c = k := by cases c <;> rfl

theorem setChip_chip_other (c c' : Chip) (k : ChipState) (h : c' ≠ c) : (s.setChip c k).chip c' = s.chip c' := by
  cases c <;> cases c' <;> first | rfl | exact absurd rfl h

@[simp] theorem emit_chip (e : Event) (c : Chip) : (s.emit e).chip c = s.chip c := by cases c <;> rfl

@[simp] theorem refuse_chip (r : RefuseReason) (c : Chip) : (refuse r s).chip c = s.chip c := by cases c <;> rfl

@[simp] theorem raiseFatal_chip (f : Fault) (c : Chip) : (raiseFatal f s).chip c = s.chip c := by cases c <;> rfl

@[simp] theorem takeOffer_chip (o : Offer) (rest : List Offer) (c : Chip) :
    (takeOffer o rest s).chip c = s.chip c := by cases c <;> rfl

end Sys2Proof.Machine
end

