-- ==== Sys2Proof/Laws/Ops.lean ====
section
/-! SUPPORT. What each shared operation of Machine/Ops.lean can do, said once. -/

namespace Sys2Proof.Machine

/-! ## The priority scan -/

theorem lineAt_rank (pa q : Line) : lineAt pa (rank pa q) = q := by revert pa q; decide

theorem rank_lt (pa q : Line) : rank pa q < 8 := (q - pa).isLt

theorem rank_lineAt (pa : Line) (d : Nat) (h : d < 8) : rank pa (lineAt pa d) = d := by
  have : ∀ (pa : Line) (d : Fin 8), rank pa (lineAt pa d.val) = d.val := by decide
  exact this pa ⟨d, h⟩

theorem rank_inj (pa q r : Line) (h : rank pa q = rank pa r) : q = r := by
  rw [← lineAt_rank pa q, h, lineAt_rank]

theorem scanPriority_of_unset (pa : Line) (m : Byte) (ds : List Nat)
    (h : ∀ d ∈ ds, bit m (lineAt pa d) = false) : scanPriority pa m ds = 8 := by
  induction ds with
  | nil => rfl
  | cons d ds ih =>
    simp only [scanPriority, h d (by simp), Bool.false_eq_true, if_false]
    exact ih fun e he => h e (by simp [he])

/-- The scan stops at the first set distance of the list, or runs through it. -/
theorem scanPriority_cases (pa : Line) (m : Byte) (ds : List Nat) :
    (scanPriority pa m ds = 8 ∧ ∀ d ∈ ds, bit m (lineAt pa d) = false) ∨
    ∃ pre post, ds = pre ++ scanPriority pa m ds :: post ∧
      bit m (lineAt pa (scanPriority pa m ds)) = true ∧ ∀ d ∈ pre, bit m (lineAt pa d) = false := by
  induction ds with
  | nil => simp [scanPriority]
  | cons d ds ih =>
    by_cases hd : bit m (lineAt pa d) = true
    · exact .inr ⟨[], ds, by simp [scanPriority, hd]⟩
    · have hs : scanPriority pa m (d :: ds) = scanPriority pa m ds := by simp [scanPriority, hd]
      rw [hs]
      rcases ih with ⟨h8, h⟩ | ⟨pre, post, h1, h2, h3⟩
      · exact .inl ⟨h8, by simpa [hd] using h⟩
      · exact .inr ⟨d :: pre, post, by rw [List.cons_append, ← h1], h2, by simpa [hd] using h3⟩

theorem priority_le_eight (pa : Line) (m : Byte) : priority pa m ≤ 8 := by
  unfold priority
  simp only [scanPriority]
  repeat' split
  all_goals omega

/-- No set line is nearer than `priority` says. -/
theorem priority_le_rank (pa : Line) (m : Byte) (q : Line) (h : bit m q = true) : priority pa m ≤ rank pa q := by
  have hq := rank_lt pa q
  have hb : bit m (lineAt pa (rank pa q)) = true := by rw [lineAt_rank]; exact h
  generalize rank pa q = d at hq hb
  unfold priority
  simp only [scanPriority]
  have hd : d = 0 ∨ d = 1 ∨ d = 2 ∨ d = 3 ∨ d = 4 ∨ d = 5 ∨ d = 6 ∨ d = 7 := by omega
  rcases hd with rfl | rfl | rfl | rfl | rfl | rfl | rfl | rfl <;> simp only [hb, if_true] <;>
    (repeat' split) <;> omega

/-- Below the sentinel, `priority` is the distance of a set line. -/
theorem bit_lineAt_priority (pa : Line) (m : Byte) (h : priority pa m ≠ 8) :
    bit m (lineAt pa (priority pa m)) = true := by
  rcases scanPriority_cases pa m [0, 1, 2, 3, 4, 5, 6, 7] with ⟨h8, _⟩ | ⟨_, _, _, hb, _⟩
  · exact absurd h8 h
  · exact hb

theorem priority_lt_of_ne (pa : Line) (m : Byte) (h : priority pa m ≠ 8) : priority pa m < 8 := by
  have := priority_le_eight pa m; omega

/-- The sentinel means that no line is set. -/
theorem priority_eq_eight_iff (pa : Line) (m : Byte) : priority pa m = 8 ↔ ∀ q, bit m q = false := by
  constructor
  · intro h q
    by_contra hq
    have := priority_le_rank pa m q (by simpa using hq)
    have := rank_lt pa q
    omega
  · intro h
    by_contra h8
    have := bit_lineAt_priority pa m h8
    rw [h] at this
    exact absurd this (by simp)

/-! ## The arbiter -/

@[simp] theorem bit_pendingSet (k : ChipState) (q : Line) : bit (pendingSet k) q = (bit k.irr q && !bit k.imr q) := by
  simp [pendingSet]

theorem bit_pendingSet_iff (k : ChipState) (q : Line) : bit (pendingSet k) q = true ↔ Requesting k q := by
  simp [Requesting]

theorem bit_inServiceSet_iff (c : Chip) (k : ChipState) (q : Line) :
    bit (inServiceSet c k) q = true ↔ Blocking c k q := by
  have h2 := bit_not_cascadeMask q
  unfold inServiceSet Blocking
  cases k.specialMask <;> cases c <;> cases k.specialFullyNestedMode <;>
    simp only [bit_and, bit_not, h2, Bool.and_eq_true, if_true, if_false, and_self, and_true, true_and, false_and,
      and_false, reduceCtorEq, not_false_eq_true, Bool.false_eq_true, Bool.not_eq_true', decide_eq_false_iff_not,
      Bool.not_eq_true]
  tauto

/-- When the arbiter presents a line, which one. -/
theorem pendingIrq_eq_some (c : Chip) (k : ChipState) (r : Line) :
    pendingIrq c k = some r ↔
      priority k.priorityAdd (pendingSet k) < priority k.priorityAdd (inServiceSet c k) ∧
        r = lineAt k.priorityAdd (priority k.priorityAdd (pendingSet k)) := by
  have h8 := priority_le_eight k.priorityAdd (inServiceSet c k)
  simp only [pendingIrq]
  split
  · constructor
    · simp
    · intro h; omega
  · split <;> simp [eq_comm, *]

/-- The arbiter reads `irr`, `imr`, `isr`, `priority_add`, `special_mask` and SFNM alone (R111). -/
theorem pendingIrq_congr (c : Chip) (k k' : ChipState) (h1 : k'.irr = k.irr) (h2 : k'.imr = k.imr)
    (h3 : k'.isr = k.isr) (h4 : k'.priorityAdd = k.priorityAdd) (h5 : k'.specialMask = k.specialMask)
    (h6 : k'.specialFullyNestedMode = k.specialFullyNestedMode) : pendingIrq c k' = pendingIrq c k := by
  cases k; cases k'; subst h1 h2 h3 h4 h5 h6; rfl

@[simp] theorem pendingIrq_out (c : Chip) (k : ChipState) (b : Bool) :
    pendingIrq c { k with out := b } = pendingIrq c k := rfl

@[simp] theorem pendingIrq_poll (c : Chip) (k : ChipState) (b : Bool) :
    pendingIrq c { k with poll := b } = pendingIrq c k := rfl

@[simp] theorem presents_out (c : Chip) (k : ChipState) (b : Bool) :
    presents c { k with out := b } = presents c k := rfl

@[simp] theorem presents_poll (c : Chip) (k : ChipState) (b : Bool) :
    presents c { k with poll := b } = presents c k := rfl

/-- With no request latched nothing is presented. -/
theorem pendingIrq_of_no_request (c : Chip) (k : ChipState) (h : k.irr = 0) : pendingIrq c k = none := by
  have : priority k.priorityAdd (pendingSet k) = 8 :=
    (priority_eq_eight_iff _ _).mpr fun q => by simp [h]
  simp [pendingIrq, this]

/-- A chip presents a line exactly when a request is nearer than every blocking line (R111). -/
theorem presents_eq_true (c : Chip) (k : ChipState) :
    presents c k = true ↔
      priority k.priorityAdd (pendingSet k) < priority k.priorityAdd (inServiceSet c k) := by
  simp only [presents, Option.isSome_iff_exists, pendingIrq_eq_some]
  exact ⟨fun ⟨_, h⟩ => h.1, fun h => ⟨_, h, rfl⟩⟩

/-- With more set lines the first one is no farther. -/
theorem priority_mono (pa : Line) (m m' : Byte) (h : ∀ q, bit m q = true → bit m' q = true) :
    priority pa m' ≤ priority pa m := by
  by_cases h8 : priority pa m = 8
  · rw [h8]; exact priority_le_eight pa m'
  · have hr := rank_lineAt pa _ (priority_lt_of_ne pa m h8)
    have := priority_le_rank pa m' _ (h _ (bit_lineAt_priority pa m h8))
    rwa [hr] at this

/-- More requests, all else equal, keep a line presented. -/
theorem presents_mono (c : Chip) (k : ChipState) (irr lastIrr : Byte)
    (h : ∀ q, bit k.irr q = true → bit irr q = true) (hp : presents c k = true) :
    presents c { k with irr := irr, lastIrr := lastIrr } = true := by
  rw [presents_eq_true] at hp ⊢
  refine lt_of_le_of_lt (priority_mono _ _ _ fun q hq => ?_) hp
  have := h q
  simp_all

/-! ## Register parts of the operations -/

theorem latchLevel_spec (i : Line) (level : Bool) (k : ChipState) : LineLatched i level k (latchLevel i level k) := by
  unfold latchLevel
  split
  · exact ⟨bitWritten_setBit _ _ _, by simpa [*] using bitWritten_setBit _ _ _, rfl⟩
  · cases level
    · exact ⟨bitWritten_setBit _ _ _, fun j => by by_cases h : j = i <;> simp [*], rfl⟩
    · exact ⟨bitWritten_setBit _ _ _, fun j => by
        by_cases h : j = i <;> by_cases hl : bit k.lastIrr i = true <;> simp [*], rfl⟩

theorem ackLine_spec (line : Line) (k : ChipState) : LineAcked line k (ackLine line k) := by
  have hself : ∀ (m : Byte) (j : Line), bit m j = if j = line then bit m line else bit m j := by
    intro m j; by_cases h : j = line <;> simp [h]
  unfold ackLine
  cases ha : k.autoEoi <;> cases hr : k.rotateOnAutoEoi <;> cases he : bit k.elcr line <;>
    exact ⟨fun j => by simp [ha, ← hself], fun j => by simp [← hself, he], by simp [ha, hr, rotateAfter], by
      cases k; simp_all⟩

theorem retireLine_spec (r : Line) (k : ChipState) : LineRetired r k (retireLine r k) :=
  ⟨bitWritten_setBit _ _ _, bitWritten_setBit _ _ _, rfl⟩

theorem specificEoi_spec (l : Line) (k : ChipState) :
    specificEoi l k = { k with isr := setBit k.isr l false } := rfl

/-- The non-specific EOI's line: the set `isr` bit nearest to the rotation base. -/
theorem highestInService_eq_some (k : ChipState) (q : Line) :
    highestInService k = some q ↔
      bit k.isr q = true ∧ ∀ q', bit k.isr q' = true → rank k.priorityAdd q ≤ rank k.priorityAdd q' := by
  simp only [highestInService]
  split
  case isTrue h =>
    have := (priority_eq_eight_iff _ _).mp h
    simp [this]
  case isFalse h =>
    have hb := bit_lineAt_priority _ _ h
    have hr := rank_lineAt k.priorityAdd _ (priority_lt_of_ne _ _ h)
    constructor
    · rintro ⟨rfl⟩
      exact ⟨hb, fun q' hq' => by rw [hr]; exact priority_le_rank _ _ _ hq'⟩
    · rintro ⟨h1, h2⟩
      have hle := h2 _ hb
      rw [hr] at hle
      have := priority_le_rank k.priorityAdd k.isr q h1
      have : rank k.priorityAdd q = priority k.priorityAdd k.isr := by omega
      rw [← this, lineAt_rank]

theorem highestInService_eq_none (k : ChipState) (h : k.isr = 0) : highestInService k = none := by
  have : priority k.priorityAdd k.isr = 8 := (priority_eq_eight_iff _ _).mpr fun q => by simp [h]
  simp [highestInService, this]

/-! ## Recomputation -/

theorem recomputePrimary_spec (s : State) : Recomputed .primary s.primary s (recomputePrimary s) := by
  unfold recomputePrimary
  by_cases h : (pendingIrq .primary s.primary).isSome = s.primary.out
  · simp only [h, if_true]
    exact ⟨by simp [presents, h], fun _ => rfl, nofun, by simp [notices], ⟨rfl, rfl, rfl, rfl, rfl, rfl⟩⟩
  · simp only [h, if_false]
    exact ⟨by simp [presents], fun _ => rfl, nofun, by simp [notices, h], ⟨rfl, rfl, rfl, rfl, rfl, rfl⟩⟩

/-- P after its recomputation. -/
@[simp] theorem recomputePrimary_primary (s : State) :
    (recomputePrimary s).primary = { s.primary with out := presents .primary s.primary } :=
  (recomputePrimary_spec s).self

@[simp] theorem recomputePrimary_secondary (s : State) : (recomputePrimary s).secondary = s.secondary :=
  (recomputePrimary_spec s).primaryAlone rfl

@[simp] theorem recomputePrimary_events (s : State) :
    (recomputePrimary s).events = s.events ++ notices s.primary.out (presents .primary s.primary) := by
  have := (recomputePrimary_spec s).events
  rwa [recomputePrimary_primary] at this

/-- The recomputation of P as one record. -/
theorem recomputePrimary_eq (s : State) :
    recomputePrimary s =
      { s with
        primary := { s.primary with out := presents .primary s.primary }
        events := s.events ++ notices s.primary.out (presents .primary s.primary) } := by
  unfold recomputePrimary
  by_cases h : (pendingIrq .primary s.primary).isSome = s.primary.out <;>
    simp [h, presents, notices, State.setChip, State.emit]

@[simp] theorem latchLevel_out (i : Line) (b : Bool) (k : ChipState) : (latchLevel i b k).out = k.out := by
  rw [(latchLevel_spec i b k).rest]

theorem recomputeSecondary_spec (s : State) : Recomputed .secondary s.secondary s (recomputeSecondary s) := by
  have hp := (recomputePrimary_spec ((s.setChip .secondary
    { s.secondary with out := presents .secondary s.secondary }).setChip .primary
      (latchLevel Config.cascadeLine (presents .secondary s.secondary) s.primary))).pair
  unfold recomputeSecondary
  refine ⟨by simp [presents], nofun, fun _ => ⟨_, latchLevel_spec 2 _ s.primary, ?_⟩, ?_, ?_⟩
  · simp [presents, Config.cascadeLine]
  · simp [presents, Config.cascadeLine, latchLevel_out]
  · exact ⟨hp.fault, hp.refused, hp.refusals, hp.snapshots, hp.inbox, hp.payload⟩

/-- P with the cascade wire at the level S's output takes. -/
def wired (kS kP : ChipState) : ChipState := latchLevel Config.cascadeLine (presents .secondary kS) kP

/-- The recomputation of S as one record. -/
theorem recomputeSecondary_eq (s : State) :
    recomputeSecondary s =
      { s with
        secondary := { s.secondary with out := presents .secondary s.secondary }
        primary := { wired s.secondary s.primary with out := presents .primary (wired s.secondary s.primary) }
        events := s.events ++ notices s.primary.out (presents .primary (wired s.secondary s.primary)) } := by
  simp [recomputeSecondary, recomputePrimary_eq, State.setChip, wired, latchLevel_out, presents]

theorem latchLevel_idem (i : Line) (level : Bool) (k : ChipState) :
    latchLevel i level (latchLevel i level k) = latchLevel i level k := by
  unfold latchLevel
  cases he : bit k.elcr i <;> cases level <;> cases hl : bit k.lastIrr i <;> simp [he]

/-- Levels given to two lines of a chip land in either order (60_exceptions.md R228). -/
theorem latchLevel_comm (i j : Line) (a b : Bool) (k : ChipState) (h : i ≠ j) :
    latchLevel j b (latchLevel i a k) = latchLevel i a (latchLevel j b k) := by
  unfold latchLevel
  cases he : bit k.elcr i <;> cases hf : bit k.elcr j <;> cases a <;> cases b <;>
    cases hi : bit k.lastIrr i <;> cases hj : bit k.lastIrr j <;>
    simp [he, hf, hi, hj, h, h.symm, setBit_comm _ _ _ _ _ h]

/-- An asserted line keeps what was presented presented. -/
theorem presents_latchLevel_true (c : Chip) (i : Line) (k : ChipState) (h : presents c k = true) :
    presents c (latchLevel i true k) = true := by
  rw [(latchLevel_spec i true k).rest]
  refine presents_mono c k _ _ (fun q hq => ?_) h
  rw [(latchLevel_spec i true k).irr q]
  by_cases hj : q = i
  · subst hj; simp [hq]
  · simp [hj, hq]

/-- A deasserted line makes nothing presented. -/
theorem presents_of_latchLevel_false (c : Chip) (i : Line) (k : ChipState)
    (h : presents c (latchLevel i false k) = true) : presents c k = true := by
  have hm := presents_mono c (latchLevel i false k) k.irr k.lastIrr (fun q hq => ?_) h
  · rw [(latchLevel_spec i false k).rest] at hm; exact hm
  · rw [(latchLevel_spec i false k).irr q] at hq
    by_cases hj : q = i
    · subst hj; cases he : bit k.elcr q <;> simp_all
    · simpa [hj] using hq

/-- A level given to a line does not read the output. -/
theorem latchLevel_with_out (i : Line) (b o : Bool) (k : ChipState) :
    latchLevel i b { k with out := o } = { latchLevel i b k with out := o } := by
  unfold latchLevel
  split
  · rfl
  · cases b <;> rfl

theorem recomputeOutput_spec (c : Chip) (s : State) : Recomputed c (s.chip c) s (recomputeOutput c s) := by
  cases c
  · exact recomputePrimary_spec s
  · exact recomputeSecondary_spec s

/-- The recomputation after chip `c`'s registers were rewritten, its output line apart. -/
theorem recomputed_setChip (c : Chip) (k : ChipState) (s t : State) (hk : k.out = (s.chip c).out)
    (h : Recomputed c k (s.setChip c k) t) : Recomputed c k s t := by
  obtain ⟨h1, h2, h3, h4, h5⟩ := h
  cases c
  · exact ⟨h1, fun _ => h2 rfl, nofun, by simp only [State.chip_primary] at hk; simpa [hk] using h4,
      ⟨h5.fault, h5.refused, h5.refusals, h5.snapshots, h5.inbox, h5.payload⟩⟩
  · exact ⟨h1, nofun, h3, h4, ⟨h5.fault, h5.refused, h5.refusals, h5.snapshots, h5.inbox, h5.payload⟩⟩

/-- A write of registers that ends with the recomputation (R116): everything it can do. -/
theorem updateAndRecompute_spec (c : Chip) (f : ChipState → ChipState) (s : State)
    (hf : (f (s.chip c)).out = (s.chip c).out) :
    Recomputed c (f (s.chip c)) s (updateAndRecompute c f s) := by
  refine recomputed_setChip c _ s _ hf ?_
  have := recomputeOutput_spec c (s.setChip c (f (s.chip c)))
  rwa [setChip_chip] at this

theorem setLevelLocal_spec (c : Chip) (i : Line) (level : Bool) (s : State) :
    ∃ k, LineLatched i level (s.chip c) k ∧ Recomputed c k s (setLevelLocal c i level s) :=
  ⟨_, latchLevel_spec i level _, updateAndRecompute_spec c _ s (latchLevel_out _ _ _)⟩

@[simp] theorem ackLine_out (line : Line) (k : ChipState) : (ackLine line k).out = k.out := by
  rw [(ackLine_spec line k).rest]

theorem intack_spec (c : Chip) (line : Line) (s : State) :
    ∃ k, LineAcked line (s.chip c) k ∧ Recomputed c k s (intack c line s) :=
  ⟨_, ackLine_spec line _, updateAndRecompute_spec c _ s (ackLine_out _ _)⟩

/-! ## Snapshots -/

theorem initStateOf_nat (st : InitState) : initStateOf (initStateNat st) = some st := by cases st <;> rfl

/-- A chip read back from its own image (70_reset_and_hazards.md R258). -/
@[simp] theorem chipOfImage_imageOfChip (k : ChipState) : chipOfImage (imageOfChip k) = k := by
  have hb : ∀ b : Bool, (b.toNat == 1) = b := by decide
  simp [chipOfImage, imageOfChip, hb, initStateOf_nat]

theorem imageFits_imageOfChip (k : ChipState) : imageFits (imageOfChip k) = true := by
  have hb : ∀ b : Bool, b.toNat < 2 := by decide
  have hi : ∀ st, initStateNat st < 4 := fun st => by cases st <;> decide
  have h8 : ∀ m : Byte, m.toNat < 256 := fun m => m.isLt
  have h3 : ∀ m : Line, m.toNat < 8 := fun m => m.isLt
  simp only [imageFits, imageOfChip, hb, hi, h8, h3, decide_true, Bool.and_self]

/-- What a payload that passes the checks is worth. -/
theorem restorable_spec (k : ChipState) (m : ChipImage) (h : restorable k m = true) :
    imageFits m = true ∧ (chipOfImage m).elcrMask = k.elcrMask ∧ ChipInv (chipOfImage m) := by
  simp only [restorable, Bool.and_eq_true, beq_iff_eq] at h
  exact ⟨h.1.1.1, h.1.1.2, h.2, h.1.2⟩

theorem restoreImage_cases (m : PairImage) (s : State) :
    (restorable s.primary m.primary = true ∧ restorable s.secondary m.secondary = true ∧
      restoreImage m s = { s with primary := chipOfImage m.primary, secondary := chipOfImage m.secondary }) ∨
    restoreImage m s = refuse .invalidSnapshot s := by
  by_cases h : (restorable s.primary m.primary && restorable s.secondary m.secondary) = true
  · have hh := h
    simp only [Bool.and_eq_true] at hh
    exact .inl ⟨hh.1, hh.2, by simp only [restoreImage, h, if_true]⟩
  · exact .inr (by simp only [restoreImage, h]; rfl)

/-! ## The step -/

/-- Everything a step can be. -/
theorem step_cases (s : State) :
    (∃ f, s.fault = some f ∧ step s = .fault f) ∨
    (s.fault = none ∧ s.inbox = [] ∧ step s = .next s) ∨
    (∃ o rest i, s.fault = none ∧ s.inbox = o :: rest ∧ readOffer s o = .ok i ∧
      step s = exec i (takeOffer o rest s)) ∨
    (∃ o rest r, s.fault = none ∧ s.inbox = o :: rest ∧ readOffer s o = .error r ∧
      step s = .next (refuse r (takeOffer o rest s))) := by
  unfold step
  cases hf : s.fault with
  | some f => exact .inl ⟨f, rfl, rfl⟩
  | none =>
    cases hi : s.inbox with
    | nil => exact .inr (.inl ⟨rfl, rfl, rfl⟩)
    | cons o rest =>
      cases hr : readOffer s o with
      | ok i => exact .inr (.inr (.inl ⟨o, rest, i, rfl, rfl, hr, by simp [hr]⟩))
      | error r => exact .inr (.inr (.inr ⟨o, rest, r, rfl, rfl, hr, by simp [hr]⟩))

end Sys2Proof.Machine
end

