-- ==== Sys2Proof/Laws/Chip.lean ====
section
/-! SUPPORT. The chip fields that each register operation of Machine/Ops.lean leaves unchanged, one lemma each. -/

namespace Sys2Proof.Machine

@[simp] theorem latchLevel_imr (i : Line) (b : Bool) (k : ChipState) : (latchLevel i b k).imr = k.imr := by
  rw [(latchLevel_spec i b k).rest]
@[simp] theorem latchLevel_isr (i : Line) (b : Bool) (k : ChipState) : (latchLevel i b k).isr = k.isr := by
  rw [(latchLevel_spec i b k).rest]
@[simp] theorem latchLevel_priorityAdd (i : Line) (b : Bool) (k : ChipState) : (latchLevel i b k).priorityAdd = k.priorityAdd := by
  rw [(latchLevel_spec i b k).rest]
@[simp] theorem latchLevel_irqBase (i : Line) (b : Bool) (k : ChipState) : (latchLevel i b k).irqBase = k.irqBase := by
  rw [(latchLevel_spec i b k).rest]
@[simp] theorem latchLevel_readRegSelect (i : Line) (b : Bool) (k : ChipState) : (latchLevel i b k).readRegSelect = k.readRegSelect := by
  rw [(latchLevel_spec i b k).rest]
@[simp] theorem latchLevel_poll (i : Line) (b : Bool) (k : ChipState) : (latchLevel i b k).poll = k.poll := by
  rw [(latchLevel_spec i b k).rest]
@[simp] theorem latchLevel_specialMask (i : Line) (b : Bool) (k : ChipState) : (latchLevel i b k).specialMask = k.specialMask := by
  rw [(latchLevel_spec i b k).rest]
@[simp] theorem latchLevel_autoEoi (i : Line) (b : Bool) (k : ChipState) : (latchLevel i b k).autoEoi = k.autoEoi := by
  rw [(latchLevel_spec i b k).rest]
@[simp] theorem latchLevel_rotateOnAutoEoi (i : Line) (b : Bool) (k : ChipState) : (latchLevel i b k).rotateOnAutoEoi = k.rotateOnAutoEoi := by
  rw [(latchLevel_spec i b k).rest]
@[simp] theorem latchLevel_specialFullyNestedMode (i : Line) (b : Bool) (k : ChipState) : (latchLevel i b k).specialFullyNestedMode = k.specialFullyNestedMode := by
  rw [(latchLevel_spec i b k).rest]
@[simp] theorem latchLevel_singleMode (i : Line) (b : Bool) (k : ChipState) : (latchLevel i b k).singleMode = k.singleMode := by
  rw [(latchLevel_spec i b k).rest]
@[simp] theorem latchLevel_init4 (i : Line) (b : Bool) (k : ChipState) : (latchLevel i b k).init4 = k.init4 := by
  rw [(latchLevel_spec i b k).rest]
@[simp] theorem latchLevel_initState (i : Line) (b : Bool) (k : ChipState) : (latchLevel i b k).initState = k.initState := by
  rw [(latchLevel_spec i b k).rest]
@[simp] theorem latchLevel_elcr (i : Line) (b : Bool) (k : ChipState) : (latchLevel i b k).elcr = k.elcr := by
  rw [(latchLevel_spec i b k).rest]
@[simp] theorem latchLevel_elcrMask (i : Line) (b : Bool) (k : ChipState) : (latchLevel i b k).elcrMask = k.elcrMask := by
  rw [(latchLevel_spec i b k).rest]

@[simp] theorem ackLine_lastIrr (l : Line) (k : ChipState) : (ackLine l k).lastIrr = k.lastIrr := by rw [(ackLine_spec l k).rest]
@[simp] theorem ackLine_imr (l : Line) (k : ChipState) : (ackLine l k).imr = k.imr := by rw [(ackLine_spec l k).rest]
@[simp] theorem ackLine_irqBase (l : Line) (k : ChipState) : (ackLine l k).irqBase = k.irqBase := by rw [(ackLine_spec l k).rest]
@[simp] theorem ackLine_readRegSelect (l : Line) (k : ChipState) : (ackLine l k).readRegSelect = k.readRegSelect := by rw [(ackLine_spec l k).rest]
@[simp] theorem ackLine_poll (l : Line) (k : ChipState) : (ackLine l k).poll = k.poll := by rw [(ackLine_spec l k).rest]
@[simp] theorem ackLine_specialMask (l : Line) (k : ChipState) : (ackLine l k).specialMask = k.specialMask := by rw [(ackLine_spec l k).rest]
@[simp] theorem ackLine_autoEoi (l : Line) (k : ChipState) : (ackLine l k).autoEoi = k.autoEoi := by rw [(ackLine_spec l k).rest]
@[simp] theorem ackLine_rotateOnAutoEoi (l : Line) (k : ChipState) : (ackLine l k).rotateOnAutoEoi = k.rotateOnAutoEoi := by rw [(ackLine_spec l k).rest]
@[simp] theorem ackLine_specialFullyNestedMode (l : Line) (k : ChipState) : (ackLine l k).specialFullyNestedMode = k.specialFullyNestedMode := by rw [(ackLine_spec l k).rest]
@[simp] theorem ackLine_singleMode (l : Line) (k : ChipState) : (ackLine l k).singleMode = k.singleMode := by rw [(ackLine_spec l k).rest]
@[simp] theorem ackLine_init4 (l : Line) (k : ChipState) : (ackLine l k).init4 = k.init4 := by rw [(ackLine_spec l k).rest]
@[simp] theorem ackLine_initState (l : Line) (k : ChipState) : (ackLine l k).initState = k.initState := by rw [(ackLine_spec l k).rest]
@[simp] theorem ackLine_elcr (l : Line) (k : ChipState) : (ackLine l k).elcr = k.elcr := by rw [(ackLine_spec l k).rest]
@[simp] theorem ackLine_elcrMask (l : Line) (k : ChipState) : (ackLine l k).elcrMask = k.elcrMask := by rw [(ackLine_spec l k).rest]

@[simp] theorem retireLine_lastIrr (r : Line) (k : ChipState) : (retireLine r k).lastIrr = k.lastIrr := rfl
@[simp] theorem retireLine_imr (r : Line) (k : ChipState) : (retireLine r k).imr = k.imr := rfl
@[simp] theorem retireLine_priorityAdd (r : Line) (k : ChipState) : (retireLine r k).priorityAdd = k.priorityAdd := rfl
@[simp] theorem retireLine_irqBase (r : Line) (k : ChipState) : (retireLine r k).irqBase = k.irqBase := rfl
@[simp] theorem retireLine_readRegSelect (r : Line) (k : ChipState) : (retireLine r k).readRegSelect = k.readRegSelect := rfl
@[simp] theorem retireLine_poll (r : Line) (k : ChipState) : (retireLine r k).poll = k.poll := rfl
@[simp] theorem retireLine_specialMask (r : Line) (k : ChipState) : (retireLine r k).specialMask = k.specialMask := rfl
@[simp] theorem retireLine_autoEoi (r : Line) (k : ChipState) : (retireLine r k).autoEoi = k.autoEoi := rfl
@[simp] theorem retireLine_rotateOnAutoEoi (r : Line) (k : ChipState) : (retireLine r k).rotateOnAutoEoi = k.rotateOnAutoEoi := rfl
@[simp] theorem retireLine_specialFullyNestedMode (r : Line) (k : ChipState) : (retireLine r k).specialFullyNestedMode = k.specialFullyNestedMode := rfl
@[simp] theorem retireLine_singleMode (r : Line) (k : ChipState) : (retireLine r k).singleMode = k.singleMode := rfl
@[simp] theorem retireLine_init4 (r : Line) (k : ChipState) : (retireLine r k).init4 = k.init4 := rfl
@[simp] theorem retireLine_initState (r : Line) (k : ChipState) : (retireLine r k).initState = k.initState := rfl
@[simp] theorem retireLine_elcr (r : Line) (k : ChipState) : (retireLine r k).elcr = k.elcr := rfl
@[simp] theorem retireLine_elcrMask (r : Line) (k : ChipState) : (retireLine r k).elcrMask = k.elcrMask := rfl
@[simp] theorem retireLine_out (r : Line) (k : ChipState) : (retireLine r k).out = k.out := rfl

@[simp] theorem specificEoi_irr (l : Line) (k : ChipState) : (specificEoi l k).irr = k.irr := rfl
@[simp] theorem specificEoi_lastIrr (l : Line) (k : ChipState) : (specificEoi l k).lastIrr = k.lastIrr := rfl
@[simp] theorem specificEoi_imr (l : Line) (k : ChipState) : (specificEoi l k).imr = k.imr := rfl
@[simp] theorem specificEoi_priorityAdd (l : Line) (k : ChipState) : (specificEoi l k).priorityAdd = k.priorityAdd := rfl
@[simp] theorem specificEoi_irqBase (l : Line) (k : ChipState) : (specificEoi l k).irqBase = k.irqBase := rfl
@[simp] theorem specificEoi_readRegSelect (l : Line) (k : ChipState) : (specificEoi l k).readRegSelect = k.readRegSelect := rfl
@[simp] theorem specificEoi_poll (l : Line) (k : ChipState) : (specificEoi l k).poll = k.poll := rfl
@[simp] theorem specificEoi_specialMask (l : Line) (k : ChipState) : (specificEoi l k).specialMask = k.specialMask := rfl
@[simp] theorem specificEoi_autoEoi (l : Line) (k : ChipState) : (specificEoi l k).autoEoi = k.autoEoi := rfl
@[simp] theorem specificEoi_rotateOnAutoEoi (l : Line) (k : ChipState) : (specificEoi l k).rotateOnAutoEoi = k.rotateOnAutoEoi := rfl
@[simp] theorem specificEoi_specialFullyNestedMode (l : Line) (k : ChipState) : (specificEoi l k).specialFullyNestedMode = k.specialFullyNestedMode := rfl
@[simp] theorem specificEoi_singleMode (l : Line) (k : ChipState) : (specificEoi l k).singleMode = k.singleMode := rfl
@[simp] theorem specificEoi_init4 (l : Line) (k : ChipState) : (specificEoi l k).init4 = k.init4 := rfl
@[simp] theorem specificEoi_initState (l : Line) (k : ChipState) : (specificEoi l k).initState = k.initState := rfl
@[simp] theorem specificEoi_elcr (l : Line) (k : ChipState) : (specificEoi l k).elcr = k.elcr := rfl
@[simp] theorem specificEoi_elcrMask (l : Line) (k : ChipState) : (specificEoi l k).elcrMask = k.elcrMask := rfl
@[simp] theorem specificEoi_out (l : Line) (k : ChipState) : (specificEoi l k).out = k.out := rfl

@[simp] theorem rotate_irr (l : Line) (k : ChipState) : (rotate l k).irr = k.irr := rfl
@[simp] theorem rotate_lastIrr (l : Line) (k : ChipState) : (rotate l k).lastIrr = k.lastIrr := rfl
@[simp] theorem rotate_imr (l : Line) (k : ChipState) : (rotate l k).imr = k.imr := rfl
@[simp] theorem rotate_isr (l : Line) (k : ChipState) : (rotate l k).isr = k.isr := rfl
@[simp] theorem rotate_irqBase (l : Line) (k : ChipState) : (rotate l k).irqBase = k.irqBase := rfl
@[simp] theorem rotate_readRegSelect (l : Line) (k : ChipState) : (rotate l k).readRegSelect = k.readRegSelect := rfl
@[simp] theorem rotate_poll (l : Line) (k : ChipState) : (rotate l k).poll = k.poll := rfl
@[simp] theorem rotate_specialMask (l : Line) (k : ChipState) : (rotate l k).specialMask = k.specialMask := rfl
@[simp] theorem rotate_autoEoi (l : Line) (k : ChipState) : (rotate l k).autoEoi = k.autoEoi := rfl
@[simp] theorem rotate_rotateOnAutoEoi (l : Line) (k : ChipState) : (rotate l k).rotateOnAutoEoi = k.rotateOnAutoEoi := rfl
@[simp] theorem rotate_specialFullyNestedMode (l : Line) (k : ChipState) : (rotate l k).specialFullyNestedMode = k.specialFullyNestedMode := rfl
@[simp] theorem rotate_singleMode (l : Line) (k : ChipState) : (rotate l k).singleMode = k.singleMode := rfl
@[simp] theorem rotate_init4 (l : Line) (k : ChipState) : (rotate l k).init4 = k.init4 := rfl
@[simp] theorem rotate_initState (l : Line) (k : ChipState) : (rotate l k).initState = k.initState := rfl
@[simp] theorem rotate_elcr (l : Line) (k : ChipState) : (rotate l k).elcr = k.elcr := rfl
@[simp] theorem rotate_elcrMask (l : Line) (k : ChipState) : (rotate l k).elcrMask = k.elcrMask := rfl
@[simp] theorem rotate_out (l : Line) (k : ChipState) : (rotate l k).out = k.out := rfl

/-- A non-specific EOI writes `isr` alone (43_command_port.md R165). -/
theorem nonSpecificEoi_rest (k : ChipState) : nonSpecificEoi k = { k with isr := (nonSpecificEoi k).isr } := by
  unfold nonSpecificEoi; cases highestInService k <;> rfl

/-- A non-specific EOI with rotation writes `isr` and `priority_add` alone (43_command_port.md R169). -/
theorem nonSpecificEoiRotate_rest (k : ChipState) :
    nonSpecificEoiRotate k =
      { k with isr := (nonSpecificEoiRotate k).isr, priorityAdd := (nonSpecificEoiRotate k).priorityAdd } := by
  unfold nonSpecificEoiRotate; cases highestInService k <;> rfl

@[simp] theorem nonSpecificEoi_irr  (k : ChipState) : (nonSpecificEoi k).irr = k.irr := by rw [nonSpecificEoi_rest k]
@[simp] theorem nonSpecificEoi_lastIrr  (k : ChipState) : (nonSpecificEoi k).lastIrr = k.lastIrr := by rw [nonSpecificEoi_rest k]
@[simp] theorem nonSpecificEoi_imr  (k : ChipState) : (nonSpecificEoi k).imr = k.imr := by rw [nonSpecificEoi_rest k]
@[simp] theorem nonSpecificEoi_priorityAdd  (k : ChipState) : (nonSpecificEoi k).priorityAdd = k.priorityAdd := by rw [nonSpecificEoi_rest k]
@[simp] theorem nonSpecificEoi_irqBase  (k : ChipState) : (nonSpecificEoi k).irqBase = k.irqBase := by rw [nonSpecificEoi_rest k]
@[simp] theorem nonSpecificEoi_readRegSelect  (k : ChipState) : (nonSpecificEoi k).readRegSelect = k.readRegSelect := by rw [nonSpecificEoi_rest k]
@[simp] theorem nonSpecificEoi_poll  (k : ChipState) : (nonSpecificEoi k).poll = k.poll := by rw [nonSpecificEoi_rest k]
@[simp] theorem nonSpecificEoi_specialMask  (k : ChipState) : (nonSpecificEoi k).specialMask = k.specialMask := by rw [nonSpecificEoi_rest k]
@[simp] theorem nonSpecificEoi_autoEoi  (k : ChipState) : (nonSpecificEoi k).autoEoi = k.autoEoi := by rw [nonSpecificEoi_rest k]
@[simp] theorem nonSpecificEoi_rotateOnAutoEoi  (k : ChipState) : (nonSpecificEoi k).rotateOnAutoEoi = k.rotateOnAutoEoi := by rw [nonSpecificEoi_rest k]
@[simp] theorem nonSpecificEoi_specialFullyNestedMode  (k : ChipState) : (nonSpecificEoi k).specialFullyNestedMode = k.specialFullyNestedMode := by rw [nonSpecificEoi_rest k]
@[simp] theorem nonSpecificEoi_singleMode  (k : ChipState) : (nonSpecificEoi k).singleMode = k.singleMode := by rw [nonSpecificEoi_rest k]
@[simp] theorem nonSpecificEoi_init4  (k : ChipState) : (nonSpecificEoi k).init4 = k.init4 := by rw [nonSpecificEoi_rest k]
@[simp] theorem nonSpecificEoi_initState  (k : ChipState) : (nonSpecificEoi k).initState = k.initState := by rw [nonSpecificEoi_rest k]
@[simp] theorem nonSpecificEoi_elcr  (k : ChipState) : (nonSpecificEoi k).elcr = k.elcr := by rw [nonSpecificEoi_rest k]
@[simp] theorem nonSpecificEoi_elcrMask  (k : ChipState) : (nonSpecificEoi k).elcrMask = k.elcrMask := by rw [nonSpecificEoi_rest k]
@[simp] theorem nonSpecificEoi_out  (k : ChipState) : (nonSpecificEoi k).out = k.out := by rw [nonSpecificEoi_rest k]

@[simp] theorem nonSpecificEoiRotate_irr  (k : ChipState) : (nonSpecificEoiRotate k).irr = k.irr := by
  rw [nonSpecificEoiRotate_rest k]
@[simp] theorem nonSpecificEoiRotate_lastIrr  (k : ChipState) : (nonSpecificEoiRotate k).lastIrr = k.lastIrr := by
  rw [nonSpecificEoiRotate_rest k]
@[simp] theorem nonSpecificEoiRotate_imr  (k : ChipState) : (nonSpecificEoiRotate k).imr = k.imr := by
  rw [nonSpecificEoiRotate_rest k]
@[simp] theorem nonSpecificEoiRotate_irqBase  (k : ChipState) : (nonSpecificEoiRotate k).irqBase = k.irqBase := by
  rw [nonSpecificEoiRotate_rest k]
@[simp] theorem nonSpecificEoiRotate_readRegSelect  (k : ChipState) : (nonSpecificEoiRotate k).readRegSelect = k.readRegSelect := by
  rw [nonSpecificEoiRotate_rest k]
@[simp] theorem nonSpecificEoiRotate_poll  (k : ChipState) : (nonSpecificEoiRotate k).poll = k.poll := by
  rw [nonSpecificEoiRotate_rest k]
@[simp] theorem nonSpecificEoiRotate_specialMask  (k : ChipState) : (nonSpecificEoiRotate k).specialMask = k.specialMask := by
  rw [nonSpecificEoiRotate_rest k]
@[simp] theorem nonSpecificEoiRotate_autoEoi  (k : ChipState) : (nonSpecificEoiRotate k).autoEoi = k.autoEoi := by
  rw [nonSpecificEoiRotate_rest k]
@[simp] theorem nonSpecificEoiRotate_rotateOnAutoEoi  (k : ChipState) : (nonSpecificEoiRotate k).rotateOnAutoEoi = k.rotateOnAutoEoi := by
  rw [nonSpecificEoiRotate_rest k]
@[simp] theorem nonSpecificEoiRotate_specialFullyNestedMode  (k : ChipState) : (nonSpecificEoiRotate k).specialFullyNestedMode = k.specialFullyNestedMode := by
  rw [nonSpecificEoiRotate_rest k]
@[simp] theorem nonSpecificEoiRotate_singleMode  (k : ChipState) : (nonSpecificEoiRotate k).singleMode = k.singleMode := by
  rw [nonSpecificEoiRotate_rest k]
@[simp] theorem nonSpecificEoiRotate_init4  (k : ChipState) : (nonSpecificEoiRotate k).init4 = k.init4 := by
  rw [nonSpecificEoiRotate_rest k]
@[simp] theorem nonSpecificEoiRotate_initState  (k : ChipState) : (nonSpecificEoiRotate k).initState = k.initState := by
  rw [nonSpecificEoiRotate_rest k]
@[simp] theorem nonSpecificEoiRotate_elcr  (k : ChipState) : (nonSpecificEoiRotate k).elcr = k.elcr := by
  rw [nonSpecificEoiRotate_rest k]
@[simp] theorem nonSpecificEoiRotate_elcrMask  (k : ChipState) : (nonSpecificEoiRotate k).elcrMask = k.elcrMask := by
  rw [nonSpecificEoiRotate_rest k]
@[simp] theorem nonSpecificEoiRotate_out  (k : ChipState) : (nonSpecificEoiRotate k).out = k.out := by
  rw [nonSpecificEoiRotate_rest k]

@[simp] theorem retireLine_irr (r : Line) (k : ChipState) : (retireLine r k).irr = setBit k.irr r false := rfl
@[simp] theorem retireLine_isr (r : Line) (k : ChipState) : (retireLine r k).isr = setBit k.isr r false := rfl
@[simp] theorem specificEoi_isr (l : Line) (k : ChipState) : (specificEoi l k).isr = setBit k.isr l false := rfl
@[simp] theorem rotate_priorityAdd (l : Line) (k : ChipState) : (rotate l k).priorityAdd = l + 1 := rfl

/-! ## Fields that no recomputation writes -/

/-- A field that neither `out` nor the cascade wire belongs to survives a recomputation. -/
theorem recomputeOutput_field {α : Sort _} (f : ChipState → α) (hout : ∀ k b, f { k with out := b } = f k)
    (hwire : ∀ b k, f (latchLevel Config.cascadeLine b k) = f k) (c c' : Chip) (s : State) :
    f ((recomputeOutput c s).chip c') = f (s.chip c') := by
  cases c
  · simp only [recomputeOutput, recomputePrimary_eq]
    cases c'
    · exact hout _ _
    · rfl
  · simp only [recomputeOutput, recomputeSecondary_eq]
    cases c'
    · exact (hout _ _).trans (hwire _ _)
    · exact hout _ _

/-- Such a field after a write of chip `c`'s registers: what was written there, on that chip alone. -/
theorem updateAndRecompute_field {α : Sort _} (f : ChipState → α) (hout : ∀ k b, f { k with out := b } = f k)
    (hwire : ∀ b k, f (latchLevel Config.cascadeLine b k) = f k) (c c' : Chip) (g : ChipState → ChipState)
    (s : State) :
    f ((updateAndRecompute c g s).chip c') = if c' = c then f (g (s.chip c)) else f (s.chip c') := by
  unfold updateAndRecompute
  rw [recomputeOutput_field f hout hwire]
  by_cases h : c' = c
  · subst h; simp
  · simp [h, setChip_chip_other _ _ _ _ h]

/-! ## Acknowledge, poll and reset -/

/-- The two shapes of an acknowledge (42_acknowledge.md R140). -/
theorem resolveVector_cases (s : State) :
    (ackedLine .primary s.primary ≠ 2 ∧
      resolveVector s =
        (vec s.primary (ackedLine .primary s.primary), intack .primary (ackedLine .primary s.primary) s)) ∨
    (ackedLine .primary s.primary = 2 ∧
      resolveVector s =
        (vec s.secondary (ackedLine .secondary s.secondary),
          intack .primary 2 (intack .secondary (ackedLine .secondary s.secondary) s))) := by
  by_cases h : ackedLine .primary s.primary = 2
  · exact .inr ⟨h, by simp [resolveVector, h, Config.cascadeLine]⟩
  · have : ¬ ackedLine .primary s.primary = Config.cascadeLine := h
    exact .inl ⟨h, by simp [resolveVector, this]⟩

/-- The four shapes of a poll read (44_data_elcr_ports.md R196). -/
theorem pollRead_cases (c : Chip) (s : State) :
    (pendingIrq c (s.chip c) = none ∧ pollRead c s = (7, s)) ∨
    ∃ r, pendingIrq c (s.chip c) = some r ∧
      ((c = .primary ∧ r = 2 ∧ pollRead c s = (2, s.setChip .primary (retireLine 2 s.primary))) ∨
       (c = .primary ∧ r ≠ 2 ∧ pollRead c s = (lineByte r, updateAndRecompute .primary (retireLine r) s)) ∨
       (c = .secondary ∧
        pollRead c s =
          (lineByte r,
            updateAndRecompute .secondary (retireLine r) (s.setChip .primary (retireLine 2 s.primary))))) := by
  cases hp : pendingIrq c (s.chip c) with
  | none => exact .inl ⟨rfl, by simp only [pollRead, hp]; rfl⟩
  | some r =>
    refine .inr ⟨r, rfl, ?_⟩
    cases c
    · by_cases h : r = 2
      · subst h
        exact .inl ⟨rfl, rfl, by simp only [pollRead, hp]; rfl⟩
      · have h' : ¬ r = Config.cascadeLine := h
        exact .inr (.inl ⟨rfl, h, by simp only [pollRead, hp, h', and_false, if_false]; rfl⟩)
    · exact .inr (.inr ⟨rfl, by simp only [pollRead, hp, reduceCtorEq, false_and, if_false]; rfl⟩)

@[simp] theorem notices_self (b : Bool) : notices b b = [] := by simp [notices]

/-- A reset whose chips have no request latched: both outputs fall, and P's fall is notified
(70_reset_and_hazards.md R253). -/
theorem resetWith_eq (f : ChipState → ChipState) (s : State)
    (hf : ∀ k, (f k).irr = 0 ∧ (f k).lastIrr = 0 ∧ (f k).out = k.out) :
    resetWith f s =
      { s with
        primary := { f s.primary with out := false }
        secondary := { f s.secondary with out := false }
        events := s.events ++ notices s.primary.out false } := by
  have hp : ∀ c k, presents c (f k) = false := fun c k => by
    simp [presents, pendingIrq_of_no_request _ _ (hf k).1]
  have hw : wired (f s.secondary) (f s.primary) = f s.primary := by
    have hz : setBit 0#8 2#3 false = 0#8 := by decide
    have h1 := hf s.primary
    unfold wired
    rw [hp]
    cases hk : f s.primary with
    | mk irr lastIrr imr isr pa base rrs poll sm ae rae sfnm sing i4 ist elcr mask out =>
      rw [hk] at h1
      simp only at h1
      obtain ⟨rfl, rfl, -⟩ := h1
      unfold latchLevel
      split <;> simp [Config.cascadeLine, hz]
  simp [resetWith, recomputeOutput, recomputePrimary_eq, recomputeSecondary_eq, hw, hp, (hf s.primary).2.2]

/-! ## Requests at a recomputation (40_arbitration.md R113) -/

/-- A recomputation clears a request only on P's line 2 made level-sensitive, by S's output low on the wire. -/
theorem recomputeOutput_clears_irr (c' c : Chip) (s : State) (j : Line) (h : bit (s.chip c).irr j = true)
    (h' : bit ((recomputeOutput c' s).chip c).irr j = false) :
    c' = .secondary ∧ c = .primary ∧ j = 2 ∧ bit s.primary.elcr 2 = true ∧
      (recomputeOutput c' s).secondary.out = false := by
  cases c' <;> cases c <;>
    simp only [recomputeOutput, recomputePrimary_eq, recomputeSecondary_eq, State.chip_primary, State.chip_secondary,
      wired, (latchLevel_spec _ _ _).irr j, Config.cascadeLine] at h h' ⊢
  all_goals first | exact Bool.noConfusion (h.symm.trans h') | skip
  by_cases hj : j = 2
  · subst hj
    cases he : bit s.primary.elcr 2 <;> simp_all
  · simp_all

/-- A recomputation sets a request only on P's line 2, by S's output high on the wire. -/
theorem recomputeOutput_sets_irr (c' c : Chip) (s : State) (j : Line) (h : bit (s.chip c).irr j = false)
    (h' : bit ((recomputeOutput c' s).chip c).irr j = true) :
    c' = .secondary ∧ c = .primary ∧ j = 2 ∧ (recomputeOutput c' s).secondary.out = true ∧
      (bit s.primary.elcr 2 = true ∨ bit s.primary.lastIrr 2 = false) := by
  cases c' <;> cases c <;>
    simp only [recomputeOutput, recomputePrimary_eq, recomputeSecondary_eq, State.chip_primary, State.chip_secondary,
      wired, (latchLevel_spec _ _ _).irr j, Config.cascadeLine] at h h' ⊢
  all_goals first | exact Bool.noConfusion (h.symm.trans h') | skip
  by_cases hj : j = 2
  · subst hj
    cases he : bit s.primary.elcr 2 <;> simp_all
  · simp_all

end Sys2Proof.Machine
end

