-- ==== Sys2Proof/Laws/PerInstr.lean ====
section
/-! SUPPORT. The family RowMatch: the word of a well-formed operation has its row's pattern in spec/opcode_table.json.
One lemma per constructor. -/

namespace Sys2Proof.Laws.RowMatch

open Sys2Proof

/-- The operation's row is in the table and its word, under the row's mask, is the row's pattern. -/
def Statement (i : Instr) : Prop :=
  i.wf = true → ∃ r ∈ opcodeTable, r.mnemonic = i.mnemonic ∧ encode i &&& r.mask = r.pattern

/-- Membership of a row written out. -/
theorem mem_table (r : OpcodeRow) (h : opcodeTable.contains r = true) : r ∈ opcodeTable := by
  simpa using h

theorem icw1 (c : Chip) (val : Byte) : Statement (.icw1 c val) := by
  have key : ∀ (c : Chip) (val : Byte), Instr.wf (.icw1 c val) = true → encode (.icw1 c val) &&& 0xDF18 = 0x0010 := by
    intro c; cases c <;> decide
  exact fun h => ⟨⟨"ICW1", 0x0010, 0xDF18, .always⟩, mem_table _ (by decide), rfl, key c val h⟩

theorem icw1Ltim (c : Chip) (val : Byte) : Statement (.icw1Ltim c val) := by
  have key : ∀ (c : Chip) (val : Byte), Instr.wf (.icw1Ltim c val) = true → encode (.icw1Ltim c val) &&& 0xDF18 = 0x0018 := by
    intro c; cases c <;> decide
  exact fun h => ⟨⟨"ICW1_LTIM", 0x0018, 0xDF18, .always⟩, mem_table _ (by decide), rfl, key c val h⟩

theorem ocw3 (c : Chip) (val : Byte) : Statement (.ocw3 c val) := by
  have key : ∀ (c : Chip) (val : Byte), Instr.wf (.ocw3 c val) = true → encode (.ocw3 c val) &&& 0xDF18 = 0x0008 := by
    intro c; cases c <;> decide
  exact fun h => ⟨⟨"OCW3", 0x0008, 0xDF18, .always⟩, mem_table _ (by decide), rfl, key c val h⟩

theorem ocw2ClrRotaeoi (c : Chip) (l : Line) : Statement (.ocw2ClrRotaeoi c l) :=
  fun _ => ⟨⟨"OCW2_CLR_ROTAEOI", 0x0000, 0xDFF8, .always⟩, mem_table _ (by decide), rfl, by
    cases c <;> (revert l; decide)⟩

theorem ocw2Eoi (c : Chip) (l : Line) : Statement (.ocw2Eoi c l) :=
  fun _ => ⟨⟨"OCW2_EOI", 0x0020, 0xDFF8, .always⟩, mem_table _ (by decide), rfl, by
    cases c <;> (revert l; decide)⟩

theorem ocw2Nop (c : Chip) (l : Line) : Statement (.ocw2Nop c l) :=
  fun _ => ⟨⟨"OCW2_NOP", 0x0040, 0xDFF8, .always⟩, mem_table _ (by decide), rfl, by
    cases c <;> (revert l; decide)⟩

theorem ocw2Seoi (c : Chip) (l : Line) : Statement (.ocw2Seoi c l) :=
  fun _ => ⟨⟨"OCW2_SEOI", 0x0060, 0xDFF8, .always⟩, mem_table _ (by decide), rfl, by
    cases c <;> (revert l; decide)⟩

theorem ocw2SetRotaeoi (c : Chip) (l : Line) : Statement (.ocw2SetRotaeoi c l) :=
  fun _ => ⟨⟨"OCW2_SET_ROTAEOI", 0x0080, 0xDFF8, .always⟩, mem_table _ (by decide), rfl, by
    cases c <;> (revert l; decide)⟩

theorem ocw2RotEoi (c : Chip) (l : Line) : Statement (.ocw2RotEoi c l) :=
  fun _ => ⟨⟨"OCW2_ROT_EOI", 0x00A0, 0xDFF8, .always⟩, mem_table _ (by decide), rfl, by
    cases c <;> (revert l; decide)⟩

theorem ocw2Setpri (c : Chip) (l : Line) : Statement (.ocw2Setpri c l) :=
  fun _ => ⟨⟨"OCW2_SETPRI", 0x00C0, 0xDFF8, .always⟩, mem_table _ (by decide), rfl, by
    cases c <;> (revert l; decide)⟩

theorem ocw2RotSeoi (c : Chip) (l : Line) : Statement (.ocw2RotSeoi c l) :=
  fun _ => ⟨⟨"OCW2_ROT_SEOI", 0x00E0, 0xDFF8, .always⟩, mem_table _ (by decide), rfl, by
    cases c <;> (revert l; decide)⟩

theorem ocw1 (c : Chip) (val : Byte) : Statement (.ocw1 c val) :=
  fun _ => ⟨⟨"OCW1", 0x0800, 0xDF00, .initState .normal⟩, mem_table _ (by decide), rfl, by
    cases c <;> (revert val; decide)⟩

theorem icw2 (c : Chip) (val : Byte) : Statement (.icw2 c val) :=
  fun _ => ⟨⟨"ICW2", 0x0800, 0xDF00, .initState .awaitIcw2⟩, mem_table _ (by decide), rfl, by
    cases c <;> (revert val; decide)⟩

theorem icw3 (c : Chip) (val : Byte) : Statement (.icw3 c val) :=
  fun _ => ⟨⟨"ICW3", 0x0800, 0xDF00, .initState .awaitIcw3⟩, mem_table _ (by decide), rfl, by
    cases c <;> (revert val; decide)⟩

theorem icw4 (c : Chip) (val : Byte) : Statement (.icw4 c val) :=
  fun _ => ⟨⟨"ICW4", 0x0800, 0xDF00, .initState .awaitIcw4⟩, mem_table _ (by decide), rfl, by
    cases c <;> (revert val; decide)⟩

theorem wrElcr (c : Chip) (val : Byte) : Statement (.wrElcr c val) :=
  fun _ => ⟨⟨"WR_ELCR", 0x1000, 0xDF00, .always⟩, mem_table _ (by decide), rfl, by
    cases c <;> (revert val; decide)⟩

theorem rdCmd (c : Chip) : Statement (.rdCmd c) :=
  fun _ => ⟨⟨"RD_CMD", 0x4000, 0xDFFF, .poll false⟩, mem_table _ (by decide), rfl, by
    cases c <;> decide⟩

theorem rdPoll (c : Chip) : Statement (.rdPoll c) :=
  fun _ => ⟨⟨"RD_POLL", 0x4000, 0xDFFF, .poll true⟩, mem_table _ (by decide), rfl, by
    cases c <;> decide⟩

theorem rdData (c : Chip) : Statement (.rdData c) :=
  fun _ => ⟨⟨"RD_DATA", 0x4800, 0xDFFF, .always⟩, mem_table _ (by decide), rfl, by
    cases c <;> decide⟩

theorem rdElcr (c : Chip) : Statement (.rdElcr c) :=
  fun _ => ⟨⟨"RD_ELCR", 0x5000, 0xDFFF, .always⟩, mem_table _ (by decide), rfl, by
    cases c <;> decide⟩

theorem setLevel (g : GlobalLine) (level : Bool) : Statement (.setLevel g level) := by
  have key : ∀ (g : GlobalLine) (level : Bool), Instr.wf (.setLevel g level) = true → encode (.setLevel g level) &&& 0xF0FE = 0x8000 := by
    decide
  exact fun h => ⟨⟨"SET_LEVEL", 0x8000, 0xF0FE, .always⟩, mem_table _ (by decide), rfl, key g level h⟩

theorem setLevelLine2 (level : Bool) : Statement (.setLevelLine2 level) :=
  fun _ => ⟨⟨"SET_LEVEL_LINE2", 0x8200, 0xFFFE, .always⟩, mem_table _ (by decide), rfl, by
    revert level; decide⟩

theorem inta : Statement (.inta) :=
  fun _ => ⟨⟨"INTA", 0x9000, 0xFFFF, .always⟩, mem_table _ (by decide), rfl, by
    decide⟩

theorem deviceReset : Statement (.deviceReset) :=
  fun _ => ⟨⟨"DEVICE_RESET", 0xC000, 0xFFFF, .always⟩, mem_table _ (by decide), rfl, by
    decide⟩

theorem coldReset : Statement (.coldReset) :=
  fun _ => ⟨⟨"COLD_RESET", 0xD000, 0xFFFF, .always⟩, mem_table _ (by decide), rfl, by
    decide⟩

theorem snapSave : Statement (.snapSave) :=
  fun _ => ⟨⟨"SNAP_SAVE", 0xE000, 0xFFFF, .always⟩, mem_table _ (by decide), rfl, by
    decide⟩

theorem snapRestore : Statement (.snapRestore) :=
  fun _ => ⟨⟨"SNAP_RESTORE", 0xF000, 0xFFFF, .always⟩, mem_table _ (by decide), rfl, by
    decide⟩

theorem reservedPort (rd : Bool) (c : Chip) (low : BitVec 11) : Statement (.reservedPort rd c low) := by
  refine fun _ => ⟨⟨"RESERVED_PORT", 0x1800, 0x9800, .always⟩, mem_table _ (by decide), rfl, ?_⟩
  apply BitVec.eq_of_getLsbD_eq
  intro n hn
  cases rd <;> cases c <;> simp only [encode, chipField] <;> interval_cases n <;> simp

theorem reservedPin (low : BitVec 13) : Statement (.reservedPin low) := by
  refine fun _ => ⟨⟨"RESERVED_PIN", 0xA000, 0xE000, .always⟩, mem_table _ (by decide), rfl, ?_⟩
  apply BitVec.eq_of_getLsbD_eq
  intro n hn
  simp only [encode]
  interval_cases n <;> simp

end Sys2Proof.Laws.RowMatch
end

