-- ==== Sys2Proof/Tests/Slice0.lean ====
section
/-! SUPPORT. Tests: the checks of WellFormed refuse an ill-formed term each; words written out from the encoding rules
decode to their operations; single steps from the vectors of spec/95_test_vectors.md; and, for each statement with
hypotheses, a state and operands that meet them together. -/

namespace Sys2Proof.Tests

open Sys2Proof Sys2Proof.Machine

/-! ## WellFormed refuses an ill-formed term for each check -/

/-- 0x00 has bit 4 clear: no ICW1. -/
theorem test_wf_icw1_bit4 : (Instr.icw1 .primary 0x00).wf = false := by decide
/-- 0x18 has bit 3 set: an ICW1_LTIM, no ICW1. -/
theorem test_wf_icw1_bit3 : (Instr.icw1 .primary 0x18).wf = false := by decide
/-- 0x10 has bit 3 clear; 0x08 has bit 4 clear. -/
theorem test_wf_icw1Ltim :
    (Instr.icw1Ltim .secondary 0x10).wf = false ∧ (Instr.icw1Ltim .secondary 0x08).wf = false := by decide
/-- 0x18 has bit 4 set; 0x20 has bit 3 clear. -/
theorem test_wf_ocw3 : (Instr.ocw3 .primary 0x18).wf = false ∧ (Instr.ocw3 .primary 0x20).wf = false := by decide
/-- Line 2 belongs to SET_LEVEL_LINE2. -/
theorem test_wf_setLevel : (Instr.setLevel 2 true).wf = false ∧ (Instr.setLevel 10 true).wf = true := by decide

/-! ## Decoding, a word of every row (30_encoding.md R81 to R97, R103) -/

/-- A context in which every chip is in one sequencer state, with one `poll`. -/
def inContext (st : InitState) (poll : Bool) : DecodeContext :=
  { primary := { initState := st, poll := poll }, secondary := { initState := st, poll := poll } }

/-- cls 00, port 00: `out S.CMD, 0x11`, `out P.CMD, 0x19`, `out S.CMD, 0x18` (VF1, VF2), `out P.CMD, 0x6F`. -/
theorem test_decode_command_words :
    decode .afterReset 0b0010000000010001 = .ok (.icw1 .secondary 0x11) ∧
    decode .afterReset 0b0000000000011001 = .ok (.icw1Ltim .primary 0x19) ∧
    decode .afterReset 0b0010000000011000 = .ok (.icw1Ltim .secondary 0x18) ∧
    decode .afterReset 0b0000000001101111 = .ok (.ocw3 .primary 0x6F) := ⟨rfl, rfl, rfl, rfl⟩

/-- The eight OCW2 codes in bits 7:5, `L` in bits 2:0. -/
theorem test_decode_ocw2_words :
    decode .afterReset 0b0000000000000001 = .ok (.ocw2ClrRotaeoi .primary 1) ∧
    decode .afterReset 0b0010000000100000 = .ok (.ocw2Eoi .secondary 0) ∧
    decode .afterReset 0b0000000001000111 = .ok (.ocw2Nop .primary 7) ∧
    decode .afterReset 0b0000000001100011 = .ok (.ocw2Seoi .primary 3) ∧
    decode .afterReset 0b0000000010000100 = .ok (.ocw2SetRotaeoi .primary 4) ∧
    decode .afterReset 0b0010000010100000 = .ok (.ocw2RotEoi .secondary 0) ∧
    decode .afterReset 0b0000000011000100 = .ok (.ocw2Setpri .primary 4) ∧
    decode .afterReset 0b0000000011100111 = .ok (.ocw2RotSeoi .primary 7) :=
  ⟨rfl, rfl, rfl, rfl, rfl, rfl, rfl, rfl⟩

/-- cls 00, port 01: one word, `out S.DATA, 0xF7`, read by the sequencer's state. -/
theorem test_decode_data_words :
    decode (inContext .normal false) 0b0010100011110111 = .ok (.ocw1 .secondary 0xF7) ∧
    decode (inContext .awaitIcw2 false) 0b0010100011110111 = .ok (.icw2 .secondary 0xF7) ∧
    decode (inContext .awaitIcw3 false) 0b0010100011110111 = .ok (.icw3 .secondary 0xF7) ∧
    decode (inContext .awaitIcw4 false) 0b0010100011110111 = .ok (.icw4 .secondary 0xF7) :=
  ⟨rfl, rfl, rfl, rfl⟩

/-- The chip's own context decides: S awaits ICW2, P does not. -/
theorem test_decode_reads_the_addressed_chip :
    decode { primary := ⟨.normal, true⟩, secondary := ⟨.awaitIcw2, false⟩ } 0x0808 = .ok (.ocw1 .primary 0x08) ∧
    decode { primary := ⟨.normal, true⟩, secondary := ⟨.awaitIcw2, false⟩ } 0x6000 = .ok (.rdCmd .secondary) :=
  ⟨rfl, rfl⟩

/-- cls 00, port 10, and the reads of cls 01. -/
theorem test_decode_elcr_and_read_words :
    decode .afterReset 0b0011000011111111 = .ok (.wrElcr .secondary 0xFF) ∧
    decode (inContext .normal false) 0b0110000000000000 = .ok (.rdCmd .secondary) ∧
    decode (inContext .normal true) 0b0110000000000000 = .ok (.rdPoll .secondary) ∧
    decode .afterReset 0b0100100000000000 = .ok (.rdData .primary) ∧
    decode .afterReset 0b0111000000000000 = .ok (.rdElcr .secondary) := ⟨rfl, rfl, rfl, rfl, rfl⟩

/-- cls 10 and 11. -/
theorem test_decode_pin_and_platform_words :
    decode .afterReset 0b1000101000000001 = .ok (.setLevel 10 true) ∧
    decode .afterReset 0b1000001000000000 = .ok (.setLevelLine2 false) ∧
    decode .afterReset 0b1001000000000000 = .ok .inta ∧
    decode .afterReset 0b1100000000000000 = .ok .deviceReset ∧
    decode .afterReset 0b1101000000000000 = .ok .coldReset ∧
    decode .afterReset 0b1110000000000000 = .ok .snapSave ∧
    decode .afterReset 0b1111000000000000 = .ok .snapRestore := ⟨rfl, rfl, rfl, rfl, rfl, rfl, rfl⟩

/-- The two reserved rows (VF3, VF6), with every bit below their pattern set in a second word of each. -/
theorem test_decode_reserved_rows :
    decode .afterReset 0b0001100000000000 = .ok (.reservedPort false .primary 0) ∧
    decode .afterReset 0b0111111111111111 = .ok (.reservedPort true .secondary 0x7FF) ∧
    decode .afterReset 0b1010000000000000 = .ok (.reservedPin 0) ∧
    decode .afterReset 0b1011111111111111 = .ok (.reservedPin 0x1FFF) := ⟨rfl, rfl, rfl, rfl⟩

/-- Words of no row (R97; VF4, VF5). -/
theorem test_decode_refuses :
    decode .afterReset 0x4001 = .error .readByteNotZero ∧ decode .afterReset 0x0100 = .error .reservedPortBits ∧
    decode .afterReset 0x9001 = .error .reservedPinBits ∧ decode .afterReset 0x8502 = .error .reservedPinBits ∧
    decode .afterReset 0xC001 = .error .reservedPlatformBits := ⟨rfl, rfl, rfl, rfl, rfl⟩

/-! ## Single steps -/

/-- P as constructed. -/
def chipP : ChipState := .constructed 0xF8

/-- S as constructed. -/
def chipS : ChipState := .constructed 0xDE

/-- The constructed pair with other chips. -/
def pair (p q : ChipState) : State := { State.reset with primary := p, secondary := q }

/-- The state an outcome leaves; reset where it leaves none. -/
def left : Host.Outcome State Fault Refusal → State
  | .next t => t
  | .fault _ => State.reset
  | .refused _ => State.reset

/-- The state after the operation of one word. -/
def after (w : Nat) (s : State) : State := left (step (s.withFetchWord 16 w))

/-- What a test looks at: both chips and the events. -/
def sees (s : State) : ChipState × ChipState × List Event := (s.primary, s.secondary, s.events)

/-- VC1. -/
theorem test_step_icw1 :
    sees (after 0x0011 (pair { chipP with irr := 0x21, imr := 0xFF, isr := 1, elcr := 0x20, irqBase := 8,
                                          priorityAdd := 3 } chipS)) =
      ({ chipP with elcr := 0x20, init4 := true, initState := .awaitIcw2 }, chipS, []) := by decide

/-- VC2, VF1. -/
theorem test_step_icw1Ltim :
    (after 0x0019 (pair { chipP with irr := 0x21, out := true } chipS)).fault = some (.levelTriggeredIcw1 .primary 0x19) ∧
    (after 0x0019 (pair { chipP with irr := 0x21, out := true } chipS)).primary.irr = 0x21 := by decide

/-- VC15: the three toggles together. -/
theorem test_step_ocw3 :
    sees (after 0x006F (pair chipP chipS)) =
      ({ chipP with specialMask := true, poll := true, readRegSelect := true }, chipS, []) := by decide

/-- VC14: ESMM with SMM clear clears `special_mask`. -/
theorem test_step_ocw3_clears_special_mask :
    sees (after 0x0048 (pair { chipP with specialMask := true } chipS)) = (chipP, chipS, []) := by decide

/-- VC11. -/
theorem test_step_ocw2ClrRotaeoi :
    sees (after 0x0000 (pair { chipP with rotateOnAutoEoi := true } chipS)) = (chipP, chipS, []) := by decide

/-- VC3 and VC4: the line cleared follows the rotation. -/
theorem test_step_ocw2Eoi :
    (after 0x0020 (pair { chipP with isr := 0x0A } chipS)).primary.isr = 0x08 ∧
    (after 0x0020 (pair { chipP with isr := 0x0A, priorityAdd := 2 } chipS)).primary.isr = 0x02 := by decide

/-- VC18: code 2 recomputes a stale output. -/
theorem test_step_ocw2Nop :
    sees (after 0x0040 (pair { chipP with lastIrr := 4, out := true } chipS)) =
      ({ chipP with lastIrr := 4 }, chipS, [.outputChanged false]) := by decide

/-- VC7 and VC8. -/
theorem test_step_ocw2Seoi :
    (after 0x0063 (pair { chipP with isr := 0x0A } chipS)).primary.isr = 0x02 ∧
    (after 0x0065 (pair { chipP with isr := 0x0A } chipS)).primary.isr = 0x0A := by decide

/-- VC12. -/
theorem test_step_ocw2SetRotaeoi :
    sees (after 0x0084 (pair chipP chipS)) = ({ chipP with rotateOnAutoEoi := true }, chipS, []) := by decide

/-- VC6, and VC5: nothing in service, no rotation. -/
theorem test_step_ocw2RotEoi :
    sees (after 0x00A0 (pair { chipP with isr := 0x0A } chipS)) =
      ({ chipP with isr := 0x08, priorityAdd := 2 }, chipS, []) ∧
    sees (after 0x00A0 (pair { chipP with priorityAdd := 2 } chipS)) =
      ({ chipP with priorityAdd := 2 }, chipS, []) := by decide

/-- VC9. -/
theorem test_step_ocw2Setpri : sees (after 0x00C4 (pair chipP chipS)) = ({ chipP with priorityAdd := 5 }, chipS, []) := by
  decide

/-- VC10: the rotation wraps. -/
theorem test_step_ocw2RotSeoi : sees (after 0x00E7 (pair { chipP with isr := 0x80 } chipS)) = (chipP, chipS, []) := by decide

/-- VD1. -/
theorem test_step_ocw1 :
    sees (after 0x0820 (pair { chipP with irr := 0x20, out := true } chipS)) =
      ({ chipP with irr := 0x20, imr := 0x20 }, chipS, [.outputChanged false]) := by decide

/-- VD2, its second step: the low bits of the base are dropped. -/
theorem test_step_icw2 :
    sees (after 0x0827 (pair { chipP with init4 := true, singleMode := true, initState := .awaitIcw2 } chipS)) =
      ({ chipP with init4 := true, singleMode := true, irqBase := 0x20, initState := .awaitIcw4 }, chipS, []) := by decide

/-- VD6, its third step: an ICW3, not a mask. -/
theorem test_step_icw3 :
    sees (after 0x08FB (pair { chipP with init4 := true, irqBase := 8, initState := .awaitIcw3 } chipS)) =
      ({ chipP with init4 := true, irqBase := 8, initState := .awaitIcw4 }, chipS, []) := by decide

/-- VD5, its fourth step. -/
theorem test_step_icw4 :
    sees (after 0x0813 (pair { chipP with init4 := true, irqBase := 8, initState := .awaitIcw4 } chipS)) =
      ({ chipP with init4 := true, irqBase := 8, specialFullyNestedMode := true, autoEoi := true }, chipS, []) := by decide

/-- VD13, its writes. -/
theorem test_step_wrElcr :
    sees (after 0x10FF (pair chipP chipS)) = ({ chipP with elcr := 0xF8 }, chipS, []) ∧
    sees (after 0x30FF (pair chipP chipS)) = (chipP, { chipS with elcr := 0xDE }, []) := by decide

/-- VC13, its reads: the selection stays. -/
theorem test_step_rdCmd :
    sees (after 0x4000 (pair { chipP with isr := 2, irr := 0x10, readRegSelect := true } chipS)) =
      ({ chipP with isr := 2, irr := 0x10, readRegSelect := true }, chipS, [.portRead 0x02]) := by decide

/-- Program C, step 5: a poll of P that finds line 2 leaves `out` stale. -/
theorem test_step_rdPoll_primary :
    sees (after 0x4000 (pair { chipP with irr := 4, lastIrr := 4, poll := true, out := true } chipS)) =
      ({ chipP with lastIrr := 4, out := true }, chipS, [.portRead 0x02]) := by decide

/-- VD14, its read: the poll of S retires P's line 2. -/
theorem test_step_rdPoll_secondary :
    sees (after 0x6000 (pair { chipP with irr := 4, lastIrr := 4, out := true }
                             { chipS with irr := 8, lastIrr := 8, poll := true, out := true })) =
      (chipP, { chipS with lastIrr := 8 }, [.outputChanged false, .portRead 0x03]) := by decide

/-- VD7. -/
theorem test_step_rdData :
    sees (after 0x4800 (pair { chipP with imr := 0x5A } chipS)) = ({ chipP with imr := 0x5A }, chipS, [.portRead 0x5A]) := by
  decide

/-- VD13, its reads. -/
theorem test_step_rdElcr :
    sees (after 0x7000 (pair chipP { chipS with elcr := 0xDE })) =
      (chipP, { chipS with elcr := 0xDE }, [.portRead 0xDE]) := by decide

/-- V-CASCADE, its first step. -/
theorem test_step_setLevel_cascade :
    sees (after 0x8A01 (pair chipP chipS)) =
      ({ chipP with irr := 4, lastIrr := 4, out := true }, { chipS with irr := 4, lastIrr := 4, out := true },
        [.outputChanged true]) := by decide

/-- V-EDGE and V-LEVEL, their second step: deasserting an edge line, a level line. -/
theorem test_step_setLevel_low :
    sees (after 0x8500 (pair { chipP with irr := 0x20, lastIrr := 0x20, out := true } chipS)) =
      ({ chipP with irr := 0x20, out := true }, chipS, []) ∧
    sees (after 0x8500 (pair { chipP with elcr := 0x20, irr := 0x20, lastIrr := 0x20, out := true } chipS)) =
      ({ chipP with elcr := 0x20 }, chipS, [.outputChanged false]) := by decide

/-- VF7. -/
theorem test_step_setLevelLine2 :
    (after 0x8201 State.reset).refusals = [.externalCascadeLine] ∧ (after 0x8201 State.reset).refused = true ∧
    sees (after 0x8201 State.reset) = sees State.reset := by decide

/-- V-CASCADE, its second step. -/
theorem test_step_inta_cascade :
    sees (after 0x9000 (pair { chipP with irqBase := 0x08, irr := 4, lastIrr := 4, out := true }
                             { chipS with irqBase := 0x70, irr := 4, lastIrr := 4, out := true })) =
      ({ chipP with irqBase := 0x08, isr := 4 }, { chipS with irqBase := 0x70, isr := 4, lastIrr := 4 },
        [.outputChanged false, .vector 0x72]) := by decide

/-- Program E, step 6 (spurious), and V-AEOI, its last step. -/
theorem test_step_inta_primary :
    sees (after 0x9000 (pair { chipP with irqBase := 0x08 } chipS)) =
      ({ chipP with irqBase := 0x08, isr := 0x80 }, chipS, [.vector 0x0F]) ∧
    sees (after 0x9000 (pair { chipP with irqBase := 0x20, autoEoi := true, rotateOnAutoEoi := true, irr := 8,
                                          lastIrr := 8, out := true } chipS)) =
      ({ chipP with irqBase := 0x20, autoEoi := true, rotateOnAutoEoi := true, lastIrr := 8, priorityAdd := 4 }, chipS,
        [.outputChanged false, .vector 0x23]) := by decide

/-- VR1. -/
theorem test_step_deviceReset :
    sees (after 0xC000 (pair { chipP with irr := 0x20, lastIrr := 0x20, elcr := 0x20, irqBase := 8, out := true } chipS)) =
      ({ chipP with elcr := 0x20 }, chipS, [.outputChanged false]) := by decide

/-- VR2. -/
theorem test_step_coldReset :
    sees (after 0xD000 (pair { chipP with irr := 0x20, lastIrr := 0x20, elcr := 0x20, irqBase := 8, out := true } chipS)) =
      (chipP, chipS, [.outputChanged false]) := by decide

/-- R256: the image carries `out`, and nothing else moves. -/
theorem test_step_snapSave :
    (after 0xE000 (pair { chipP with out := true } chipS)).snapshots =
      [{ primary := { ChipImage.constructed 0xF8 with out := 1 }, secondary := .constructed 0xDE }] ∧
    sees (after 0xE000 (pair { chipP with out := true } chipS)) = ({ chipP with out := true }, chipS, []) := by decide

/-- An offered restore of an image. -/
def restoring (m : PairImage) : State :=
  { State.reset with inbox := [{ word := 0xF000, width := 1, payload := m }] }

/-- VR4 with a stale output (R256, R257): the fields are copied, nothing is recomputed. -/
theorem test_step_snapRestore :
    sees (left (step (restoring { primary := { ChipImage.constructed 0xF8 with irr := 0x20 },
                                  secondary := { ChipImage.constructed 0xDE with out := 1 } }))) =
      ({ chipP with irr := 0x20 }, { chipS with out := true }, []) := by decide

/-- VR5, VR6, VR7. -/
theorem test_step_snapRestore_refuses :
    ∀ m ∈ [{ primary := { ChipImage.constructed 0xF8 with elcr := 4 }, secondary := .constructed 0xDE },
            { primary := .constructed 0xF8, secondary := { ChipImage.constructed 0xDE with irqBase := 0x71 } },
            ({ primary := .constructed 0xFF, secondary := .constructed 0xDE } : PairImage)],
      (left (step (restoring m))).refusals = [.invalidSnapshot] := by decide

/-- VF3 and VF6. -/
theorem test_step_reserved :
    (after 0x1800 State.reset).refusals = [.reservedEncoding] ∧
    (after 0xA000 State.reset).refusals = [.reservedEncoding] := by decide

/-- VF8: a 2-byte access. -/
theorem test_step_access_width :
    (left (step { State.reset with inbox := [{ word := 0x4800, width := 2, payload := imageOf State.reset }] })).refusals =
      [.accessWidth] := by decide

/-- The spec's defaults of PORT_MAP (00_scope.md R5). -/
theorem test_port_map :
    Config.portMap .primary .cmd = 0x20 ∧ Config.portMap .secondary .data = 0xA1 ∧
    Config.portMap .secondary .elcr = 0x4D1 := ⟨rfl, rfl, rfl⟩

/-! ## Witnesses: hypotheses that a state and operands meet together, a witness for each clause -/

/-- P with line 7 alone requesting. -/
def requestP7 : State := pair { chipP with irr := 0x80 } chipS

/-- P with the cascade line requesting, S with line 7. -/
def requestS7 : State := pair { chipP with irr := 0x04 } { chipS with irr := 0x80 }

/-- P with the cascade line requesting, S with nothing. -/
def requestNoneS : State := pair { chipP with irr := 0x04 } chipS

/-- S presents line 7, and the wire was seen high by P. -/
def wireHigh : State :=
  pair { chipP with irr := 0x04, lastIrr := 0x04, out := true } { chipS with irr := 0x80, lastIrr := 0x80, out := true }

/-- The empty mask; the mask of the last line scanned, and of the first. -/
theorem test_witness_priority :
    ((0 : Byte) = 0 ∧ priority 5 0 = 8) ∧ ((0x40 : Byte) ≠ 0 ∧ priority 7 0x40 = 7) ∧
    ((0x80 : Byte) ≠ 0 ∧ priority 7 0x80 = 0) := by decide

/-- The last line of P and the first of S. -/
theorem test_witness_setLevel :
    ((7 : GlobalLine) ≠ 2 ∧ Chip.primary = (if (7 : GlobalLine).toNat < 8 then Chip.primary else Chip.secondary) ∧
      (7 : Line).toNat = (7 : GlobalLine).toNat % 8) ∧
    ((8 : GlobalLine) ≠ 2 ∧ Chip.secondary = (if (8 : GlobalLine).toNat < 8 then Chip.primary else Chip.secondary) ∧
      (0 : Line).toNat = (8 : GlobalLine).toNat % 8) := by decide

theorem test_witness_setLevelTwice :
    (15 : GlobalLine) ≠ 2 ∧ ∃ t, exec (.setLevel 15 true) State.reset = .next t := ⟨by decide, _, rfl⟩

/-- A line of P with one of S; two of S asserted, and two deasserted with S's line 7 presented and the wire high. -/
theorem test_witness_requestLinesCommute :
    ((7 : GlobalLine) ≠ 8 ∧ (7 : GlobalLine) ≠ 2 ∧ (8 : GlobalLine) ≠ 2 ∧
      ((7 : GlobalLine).toNat < 8 ∨ (8 : GlobalLine).toNat < 8) ∧ ∃ s1 t1 s2 t2,
        exec (.setLevel 7 true) State.reset = .next s1 ∧ exec (.setLevel 8 false) s1 = .next t1 ∧
        exec (.setLevel 8 false) State.reset = .next s2 ∧ exec (.setLevel 7 true) s2 = .next t2) ∧
    ((8 : GlobalLine) ≠ 15 ∧ (8 : GlobalLine) ≠ 2 ∧ (15 : GlobalLine) ≠ 2 ∧
      (bit State.reset.primary.lastIrr 2 = true → ∃ r, Presented .secondary State.reset.secondary r) ∧ ∃ s1 t1 s2 t2,
        exec (.setLevel 8 true) State.reset = .next s1 ∧ exec (.setLevel 15 true) s1 = .next t1 ∧
        exec (.setLevel 15 true) State.reset = .next s2 ∧ exec (.setLevel 8 true) s2 = .next t2) ∧
    ((∀ r, Presented .secondary wireHigh.secondary r → bit wireHigh.primary.lastIrr 2 = true) ∧ ∃ s1 t1 s2 t2,
        exec (.setLevel 8 false) wireHigh = .next s1 ∧ exec (.setLevel 15 false) s1 = .next t1 ∧
        exec (.setLevel 15 false) wireHigh = .next s2 ∧ exec (.setLevel 8 false) s2 = .next t2) :=
  ⟨⟨by decide, by decide, by decide, by decide, _, _, _, _, rfl, rfl, rfl, rfl⟩,
    ⟨by decide, by decide, by decide, fun h => absurd h (by decide), _, _, _, _, rfl, rfl, rfl, rfl⟩,
    fun _ _ => by decide, _, _, _, _, rfl, rfl, rfl, rfl⟩

/-- A line presented, and nothing presented. -/
theorem test_witness_intaPrimary :
    ((7 : Line) ≠ 2 ∧ Presented .primary requestP7.primary 7) ∧
    ((7 : Line) ≠ 2 ∧ PresentsNothing .primary State.reset.primary ∧ (7 : Line) = 7) := by
  unfold PresentsNothing Presented Requesting Blocking; decide

/-- The cascade line with a line of S, and with none. -/
theorem test_witness_intaCascaded :
    (Presented .primary requestS7.primary 2 ∧ Presented .secondary requestS7.secondary 7) ∧
    (Presented .primary requestNoneS.primary 2 ∧ PresentsNothing .secondary requestNoneS.secondary ∧ (7 : Line) = 7) := by
  unfold PresentsNothing Presented Requesting Blocking
  refine ⟨⟨?_, ?_⟩, ?_, ?_, rfl⟩ <;> decide

theorem test_witness_vectorIsBaseOrLine :
    ({ chipP with irqBase := 0xF8 } : ChipState).irqBase &&& 0x07 = 0 := by decide

/-- The first line of the order, one of S, and the last. -/
theorem test_witness_globalPriorityOrder :
    ∀ p ∈ [(pair { chipP with irr := 0xFF } { chipS with irr := 0xFF }, (0 : GlobalLine)), (requestS7, 15),
           (requestP7, 7)],
      p.1.primary.priorityAdd = 0 ∧ p.1.secondary.priorityAdd = 0 ∧ p.1.primary.isr = 0 ∧ p.1.secondary.isr = 0 ∧
      (Requesting p.1.primary 2 ↔ ∃ q, Requesting p.1.secondary q) ∧
      globalOrder.find? (globalRequest p.1) = some p.2 := by
  unfold Requesting; decide

/-- Without and with a rotation. -/
theorem test_witness_nonSpecificEoi :
    (bit (0x0A : Byte) 1 = true ∧ ∀ q', bit (0x0A : Byte) q' = true → rank 0 1 ≤ rank 0 q') ∧
    (bit (0x0A : Byte) 3 = true ∧ ∀ q', bit (0x0A : Byte) q' = true → rank 2 3 ≤ rank 2 q') ∧
    (State.reset.chip .secondary).isr = 0 := by decide

theorem test_witness_recomputationIsIdempotent :
    ∃ t, exec (.ocw2Nop .secondary 0) (pair chipP { chipS with irr := 1 }) = .next t := ⟨_, rfl⟩

theorem test_witness_commandRead :
    ((pair { chipP with readRegSelect := true } chipS).chip .primary).readRegSelect = true ∧
    ((pair { chipP with readRegSelect := true } chipS).chip .secondary).readRegSelect = false := by decide

theorem test_witness_pollRead :
    PresentsNothing .secondary (requestP7.chip .secondary) ∧
    (Presented .primary requestP7.primary 7 ∧ (7 : Line) ≠ 2) ∧ Presented .primary requestS7.primary 2 ∧
    Presented .secondary requestS7.secondary 7 := by
  unfold PresentsNothing Presented Requesting Blocking
  refine ⟨?_, ⟨?_, by decide⟩, ?_, ?_⟩ <;> decide

/-- A state whose payload is the image of other chips, P's output stale. -/
def restorableState : State :=
  { State.reset with
    payload := { primary := imageOfChip { chipP with irqBase := 0xF8, elcr := 0xF8, out := true },
                 secondary := imageOfChip chipS } }

theorem test_witness_snapRestore :
    ChipInv { chipP with irqBase := 0xF8, elcr := 0xF8, out := true } ∧ ChipInv chipS ∧
    ({ chipP with irqBase := 0xF8, elcr := 0xF8, out := true } : ChipState).elcrMask = restorableState.primary.elcrMask ∧
    chipS.elcrMask = restorableState.secondary.elcrMask ∧
    restorableState.payload =
      { primary := imageOfChip { chipP with irqBase := 0xF8, elcr := 0xF8, out := true },
        secondary := imageOfChip chipS } := by decide

/-- A number just out of its width; an `elcr` bit outside the mask; a low bit of `irq_base`. -/
theorem test_witness_snapRestoreRefuses :
    (BadImage chipP { ChipImage.constructed 0xF8 with irr := 256 } ∨ BadImage chipS (.constructed 0xDE)) ∧
    BadImage chipP { ChipImage.constructed 0xF8 with elcr := 4 } ∧
    BadImage chipS { ChipImage.constructed 0xDE with irqBase := 0x71 } := by
  refine ⟨.inl ?_, ?_, ?_⟩
  · simp [BadImage]
  · unfold BadImage
    iterate 19 apply Or.inr
    exact .inl ⟨2, by decide⟩
  · simp [BadImage]

theorem test_witness_snapshotRoundTrip :
    Inv requestS7 ∧ ({ State.reset with payload := imageOf requestS7 } : State).primary.elcrMask = requestS7.primary.elcrMask ∧
    ({ State.reset with payload := imageOf requestS7 } : State).secondary.elcrMask = requestS7.secondary.elcrMask ∧
    ({ State.reset with payload := imageOf requestS7 } : State).payload = imageOf requestS7 ∧
    ∀ i ∈ [Instr.inta, .ocw2Eoi .secondary 0], i ≠ .snapRestore := by decide

theorem test_witness_decodeOfEncode :
    (Instr.setLevel 15 true).wf = true ∧ (Instr.setLevel 15 true).fits .afterReset = true ∧
    (Instr.icw4 .secondary 0xFF).wf = true ∧ (Instr.icw4 .secondary 0xFF).fits (inContext .awaitIcw4 true) = true ∧
    (Instr.rdPoll .primary).wf = true ∧ (Instr.rdPoll .primary).fits (inContext .awaitIcw4 true) = true := by decide

theorem test_witness_encodeOfDecode : decode .afterReset 0x8F01 = .ok (.setLevel 15 true) := rfl

/-- One row, the two rows of line 2, no row. -/
theorem test_witness_decoderAgreesWithTheTable :
    (decode .afterReset 0x8101 = .ok (.setLevel 1 true) ∧ ∀ b, Instr.setLevel 1 true ≠ .setLevelLine2 b) ∧
    decode .afterReset 0x8201 = .ok (.setLevelLine2 true) ∧ decode .afterReset 0x8302 = .error .reservedPinBits :=
  ⟨⟨rfl, fun _ h => by cases h⟩, rfl, rfl⟩

/-- A pair to which one word is offered, at a width. -/
def offering (w : TWord) (width : Nat) : State :=
  { State.reset with inbox := [{ word := w, width := width, payload := imageOf State.reset }] }

/-- A one-byte port access, a pin operation (whose width is not used), a word of no row, a two-byte access. -/
theorem test_witness_step :
    ∃ o1 o2 o3 o4,
      ((offering 0x0011 1).fault = none ∧ (offering 0x0011 1).inbox = o1 :: [] ∧
        (o1.word.getLsbD 15 = false → o1.width = 1) ∧
        decode (offering 0x0011 1).decodeContext o1.word = .ok (.icw1 .primary 0x11)) ∧
      ((offering 0x9000 0).fault = none ∧ (offering 0x9000 0).inbox = o2 :: [] ∧
        (o2.word.getLsbD 15 = false → o2.width = 1) ∧
        decode (offering 0x9000 0).decodeContext o2.word = .ok .inta) ∧
      ((offering 0x0100 1).fault = none ∧ (offering 0x0100 1).inbox = o3 :: [] ∧
        (o3.word.getLsbD 15 = false → o3.width = 1) ∧
        decode (offering 0x0100 1).decodeContext o3.word = .error .reservedPortBits) ∧
      ((offering 0x4800 2).fault = none ∧ (offering 0x4800 2).inbox = o4 :: [] ∧
        o4.word.getLsbD 15 = false ∧ o4.width ≠ 1) :=
  ⟨_, _, _, _, ⟨rfl, rfl, by decide, rfl⟩, ⟨rfl, rfl, by decide, rfl⟩, ⟨rfl, rfl, by decide, rfl⟩,
    ⟨rfl, rfl, by decide, by decide⟩⟩

theorem test_witness_idleAndStopped :
    (State.reset.fault = none ∧ State.reset.inbox = []) ∧
    ({ State.reset with fault := some (.levelTriggeredIcw1 .secondary 0xFF) } : State).fault =
      some (.levelTriggeredIcw1 .secondary 0xFF) := ⟨⟨rfl, rfl⟩, rfl⟩

/-- A step that completes from a state that meets the invariants, without and with the fault recorded. -/
theorem test_witness_stepKeeps :
    Inv (offering 0x3018 1) ∧ (∃ t, step (offering 0x3018 1) = .next t) ∧
    ∃ t, step (offering 0x2018 1) = .next t ∧ t.fault = some (.levelTriggeredIcw1 .secondary 0x18) :=
  ⟨by decide, ⟨_, rfl⟩, _, rfl, rfl⟩

theorem test_witness_marks :
    ∃ t, ({ offering 0x9000 1 with refused := true } : State).refused = true ∧
      step { offering 0x9000 1 with refused := true } = .next t := ⟨_, rfl, rfl⟩

theorem test_witness_sequencer :
    Instr.icw2 .secondary 0x70 ≠ .snapRestore ∧ ∃ t, exec (.icw2 .secondary 0x70) State.reset = .next t :=
  ⟨by decide, _, rfl⟩

theorem test_witness_notifications :
    (Instr.setLevel 10 true ≠ .snapRestore ∧ ∃ t, exec (.setLevel 10 true) State.reset = .next t) ∧
    ∃ t, Instr.snapRestore = .snapRestore ∧ exec .snapRestore restorableState = .next t :=
  ⟨⟨by decide, _, rfl⟩, _, rfl, rfl⟩

/-- Two pairs with the same chips, of which one was refused something and has emitted something; a restore. -/
theorem test_witness_chipsDetermine :
    let u : State := { restorableState with events := [.vector 7], refused := true, refusals := [.accessWidth] }
    restorableState.primary = u.primary ∧ restorableState.secondary = u.secondary ∧
    (Instr.snapRestore = .snapRestore → restorableState.payload = u.payload) ∧
    ∃ t, exec .snapRestore restorableState = .next t := ⟨rfl, rfl, fun _ => rfl, _, rfl⟩

theorem test_witness_onlyInta :
    ∃ t, exec (.rdData .primary) (pair { chipP with isr := 0x80 } chipS) = .next t ∧
      Instr.rdData .primary ≠ .inta ∧ Instr.rdData .primary ≠ .snapRestore ∧ bit (t.chip .primary).isr 7 = true :=
  ⟨_, rfl, by decide, by decide, by decide⟩

theorem test_witness_serviceEnds :
    ∃ t, exec (.ocw2Eoi .primary 0) (pair { chipP with isr := 0x80 } chipS) = .next t ∧
      bit ((pair { chipP with isr := 0x80 } chipS).chip .primary).isr 7 = true ∧
      bit (t.chip .primary).isr 7 = false := ⟨_, rfl, by decide, by decide⟩

theorem test_witness_requestsCleared :
    ∃ t, exec .inta requestS7 = .next t ∧ bit (requestS7.chip .secondary).irr 7 = true ∧
      bit (t.chip .secondary).irr 7 = false := ⟨_, rfl, by decide, by decide⟩

/-- S's last request masked, P's line 2 level-sensitive: the wire clears P's request. -/
theorem test_witness_requestsCleared_by_the_wire :
    ∃ t, exec (.ocw1 .secondary 0xFF)
        (pair { chipP with elcr := 4, elcrMask := 4, irr := 4, lastIrr := 4 } { chipS with irr := 0x80, out := true }) =
          .next t ∧ bit (t.chip .primary).irr 2 = false ∧ t.secondary.out = false := ⟨_, rfl, by decide, by decide⟩

/-- A device's line, and the cascade wire. -/
theorem test_witness_requestsSet :
    ∃ t, exec (.setLevel 8 true) State.reset = .next t ∧ Instr.setLevel 8 true ≠ .snapRestore ∧
      (bit (State.reset.chip .secondary).irr 0 = false ∧ bit (t.chip .secondary).irr 0 = true) ∧
      (bit (State.reset.chip .primary).irr 2 = false ∧ bit (t.chip .primary).irr 2 = true) :=
  ⟨_, rfl, by decide, by decide, by decide⟩

/-- An operation that meets every premise of the list of writers. -/
theorem test_witness_controlFields :
    ¬ Reinitialises (.ocw2Nop .primary 0) .primary ∧ (∃ t, exec (.ocw2Nop .primary 0) State.reset = .next t) ∧
    (∀ val, Instr.ocw2Nop .primary 0 ≠ .wrElcr .primary val) ∧ (∀ val, Instr.ocw2Nop .primary 0 ≠ .ocw1 .primary val) ∧
    (∀ val, Instr.ocw2Nop .primary 0 ≠ .icw2 .primary val) ∧ (∀ val, Instr.ocw2Nop .primary 0 ≠ .ocw3 .primary val) ∧
    (∀ val, Instr.ocw2Nop .primary 0 ≠ .icw4 .primary val) ∧
    (∀ l, Instr.ocw2Nop .primary 0 ≠ .ocw2ClrRotaeoi .primary l) ∧
    (∀ l, Instr.ocw2Nop .primary 0 ≠ .ocw2SetRotaeoi .primary l) ∧
    (∀ l, Instr.ocw2Nop .primary 0 ≠ .ocw2RotEoi .primary l) ∧
    (∀ l, Instr.ocw2Nop .primary 0 ≠ .ocw2Setpri .primary l) ∧
    (∀ l, Instr.ocw2Nop .primary 0 ≠ .ocw2RotSeoi .primary l) ∧ Instr.ocw2Nop .primary 0 ≠ .rdPoll .primary ∧
    Instr.ocw2Nop .primary 0 ≠ .inta ∧ Instr.ocw2Nop .primary 0 ≠ .coldReset ∧
    Instr.ocw2Nop .primary 0 ≠ .snapRestore := by
  refine ⟨by simp [Reinitialises], ⟨_, rfl⟩, ?_⟩
  simp

end Sys2Proof.Tests
end

section
/-! SUPPORT. The scope rules (00_scope.md): the vector of a line, and which operation a step performs. -/

namespace Sys2Proof.Machine

/-! ## The vector (00_scope.md R10, 42_acknowledge.md R142) -/

/-- A base with its low three bits 0 (10_state.md R27) has no bit in common with a line. -/
theorem and_lineByte_eq_zero (base : Byte) (r : Line) (h : base &&& 0x07 = 0) : base &&& lineByte r = 0 := by
  have hlow : lineByte r = 0x07 &&& lineByte r := by revert r; decide
  calc base &&& lineByte r
      = (base &&& 0x07) &&& lineByte r := by rw [BitVec.and_assoc, ← hlow]
    _ = 0 := by rw [h]; exact BitVec.zero_and

@[simp] theorem lineByte_toNat (r : Line) : (lineByte r).toNat = r.toNat :=
  BitVec.toNat_setWidth_of_le (by decide)

/-- Settles O9: base and line share no bit, so their sum has no carry. -/
theorem vectorIsBaseOrLine : Obligations.VectorIsBaseOrLine := by
  intro k r hbase
  have hdisj : k.irqBase &&& lineByte r = 0 := and_lineByte_eq_zero k.irqBase r hbase
  constructor
  · calc vec k r
        = k.irqBase ||| lineByte r := BitVec.add_eq_or_of_and_eq_zero _ _ hdisj
      _ = k.irqBase ||| BitVec.ofNat 8 r.toNat := by rw [BitVec.ofNat_toNat, lineByte]
  · calc (vec k r).toNat
        = k.irqBase.toNat + (lineByte r).toNat := BitVec.toNat_add_of_and_eq_zero hdisj
      _ = k.irqBase.toNat + r.toNat := by rw [lineByte_toNat]

/-! ## The step (00_scope.md R7) -/

/-- An offer that passes the width check names the operation its word decodes to. -/
theorem readOffer_of_decode_ok (s : State) (o : Offer) (i : Instr) (hw : o.word.getLsbD 15 = false → o.width = 1)
    (hd : decode s.decodeContext o.word = .ok i) : readOffer s o = .ok i := by
  have hwidth : (isPortWord o.word && o.width != 1) = false := by
    cases hport : o.word.getLsbD 15 with
    | true => simp [isPortWord, hport]
    | false => simp [hw hport]
  simp [readOffer, hwidth, hd]

theorem step_of_inbox_nil (s : State) (hf : s.fault = none) (hi : s.inbox = []) : step s = .next s := by
  simp only [step, hf, hi]

theorem step_of_readOffer_ok (s : State) (o : Offer) (rest : List Offer) (i : Instr) (hf : s.fault = none)
    (hi : s.inbox = o :: rest) (hr : readOffer s o = .ok i) : step s = exec i (takeOffer o rest s) := by
  simp only [step, hf, hi, hr]

/-- Settles O42: the offer at the head is read as the operation its word decodes to, and the step performs it. -/
theorem stepRunsTheDecodedOperation : Obligations.StepRunsTheDecodedOperation := by
  intro s o rest i hf hi hw hd
  have hr : readOffer s o = .ok i := readOffer_of_decode_ok s o i hw hd
  exact step_of_readOffer_ok s o rest i hf hi hr

/-- Settles O45: the step's equation for an empty inbox. -/
theorem idleStepChangesNothing : Obligations.IdleStepChangesNothing := step_of_inbox_nil

end Sys2Proof.Machine
end

section
/-! SUPPORT. The state rules (10_state.md): what each operation does, said once, as a write of the pair; which
registers of a chip it may write; and what it shows the host. -/

namespace Sys2Proof.Machine

/-! ## The shapes of an operation -/

/-- The operations that rewrite the registers of one chip and recompute it (40_arbitration.md R116), with the chip and
the write. -/
inductive RegisterWrite : Instr → Chip → (ChipState → ChipState) → Prop where
  | icw1 (c : Chip) (val : Byte) : RegisterWrite (.icw1 c val) c fun k => loadIcw1 val k.zeroed
  | ocw3 (c : Chip) (val : Byte) : RegisterWrite (.ocw3 c val) c (loadOcw3 val)
  | clrRotaeoi (c : Chip) (l : Line) :
      RegisterWrite (.ocw2ClrRotaeoi c l) c fun k => { k with rotateOnAutoEoi := false }
  | eoi (c : Chip) (l : Line) : RegisterWrite (.ocw2Eoi c l) c nonSpecificEoi
  | nop (c : Chip) (l : Line) : RegisterWrite (.ocw2Nop c l) c id
  | seoi (c : Chip) (l : Line) : RegisterWrite (.ocw2Seoi c l) c (specificEoi l)
  | setRotaeoi (c : Chip) (l : Line) :
      RegisterWrite (.ocw2SetRotaeoi c l) c fun k => { k with rotateOnAutoEoi := true }
  | rotEoi (c : Chip) (l : Line) : RegisterWrite (.ocw2RotEoi c l) c nonSpecificEoiRotate
  | setpri (c : Chip) (l : Line) : RegisterWrite (.ocw2Setpri c l) c (rotate l)
  | rotSeoi (c : Chip) (l : Line) : RegisterWrite (.ocw2RotSeoi c l) c fun k => rotate l (specificEoi l k)
  | ocw1 (c : Chip) (val : Byte) : RegisterWrite (.ocw1 c val) c fun k => { k with imr := val }
  | icw2 (c : Chip) (val : Byte) :
      RegisterWrite (.icw2 c val) c fun k => { k with irqBase := vectorBase val, initState := afterIcw2 k }
  | icw3 (c : Chip) (val : Byte) : RegisterWrite (.icw3 c val) c fun k => { k with initState := afterIcw3 k }
  | icw4 (c : Chip) (val : Byte) :
      RegisterWrite (.icw4 c val) c fun k => { loadIcw4 val k with initState := .normal }
  | setLevel (g : GlobalLine) (level : Bool) (hg : g ≠ 2) :
      RegisterWrite (.setLevel g level) (globalChip g) (latchLevel (globalLocal g) level)

/-- The pair after a poll read, its byte not yet returned (44_data_elcr_ports.md R195, R196). -/
def polled (c : Chip) (s : State) : State :=
  (pollRead c s).2.setChip c { (pollRead c s).2.chip c with poll := false }

/-- The operation acts on the pair as this function (`exec_acts`: every operation does as one of them). Reads other than
a poll and refusals are told apart by their value and their reason alone, since they write no chip. -/
inductive Acts : Instr → (State → State) → Prop where
  | write {i : Instr} {c : Chip} {f : ChipState → ChipState} (h : RegisterWrite i c f) :
      Acts i (updateAndRecompute c f)
  | wrElcr (c : Chip) (val : Byte) :
      Acts (.wrElcr c val) fun s => s.setChip c { s.chip c with elcr := elcrValue val (s.chip c).elcrMask }
  | read (i : Instr) (c : Chip) (f : ChipState → Byte) : Acts i fun s => s.emit (.portRead (f (s.chip c)))
  | rdPoll (c : Chip) : Acts (.rdPoll c) fun s => (polled c s).emit (.portRead (pollRead c s).1)
  | inta : Acts .inta fun s => (resolveVector s).2.emit (.vector (resolveVector s).1)
  | deviceReset : Acts .deviceReset (resetWith ChipState.zeroed)
  | coldReset : Acts .coldReset (resetWith ChipState.coldZeroed)
  | snapSave : Acts .snapSave fun s => { s with snapshots := s.snapshots ++ [imageOf s] }
  | snapRestore : Acts .snapRestore fun s => restoreImage s.payload s
  | fatal (c : Chip) (val : Byte) : Acts (.icw1Ltim c val) (raiseFatal (.levelTriggeredIcw1 c val))
  | refused (i : Instr) (r : RefuseReason) : Acts i (refuse r)

/-- A recomputation alone is a write that changes no register. -/
theorem updateAndRecompute_id (c : Chip) (s : State) : updateAndRecompute c id s = recomputeOutput c s := by
  cases c <;> rfl

/-- A device's line other than the cascade line (41_request_lines.md R130). -/
theorem exec_setLevel_of_ne (g : GlobalLine) (level : Bool) (s : State) (hg : g ≠ 2) :
    exec (.setLevel g level) s = .next (updateAndRecompute (globalChip g) (latchLevel (globalLocal g) level) s) := by
  simp only [exec, execSetLevel, hg, if_false]
  rfl

/-- Every operation completes, in one of the shapes. -/
theorem exec_acts (i : Instr) : ∃ F, Acts i F ∧ ∀ s, exec i s = .next (F s) := by
  cases i with
  | icw1 c val => exact ⟨_, .write (.icw1 c val), fun _ => rfl⟩
  | icw1Ltim c val => exact ⟨_, .fatal c val, fun _ => rfl⟩
  | ocw3 c val => exact ⟨_, .write (.ocw3 c val), fun _ => rfl⟩
  | ocw2ClrRotaeoi c l => exact ⟨_, .write (.clrRotaeoi c l), fun _ => rfl⟩
  | ocw2Eoi c l => exact ⟨_, .write (.eoi c l), fun _ => rfl⟩
  | ocw2Nop c l => exact ⟨_, .write (.nop c l), fun s => by rw [updateAndRecompute_id]; rfl⟩
  | ocw2Seoi c l => exact ⟨_, .write (.seoi c l), fun _ => rfl⟩
  | ocw2SetRotaeoi c l => exact ⟨_, .write (.setRotaeoi c l), fun _ => rfl⟩
  | ocw2RotEoi c l => exact ⟨_, .write (.rotEoi c l), fun _ => rfl⟩
  | ocw2Setpri c l => exact ⟨_, .write (.setpri c l), fun _ => rfl⟩
  | ocw2RotSeoi c l => exact ⟨_, .write (.rotSeoi c l), fun _ => rfl⟩
  | ocw1 c val => exact ⟨_, .write (.ocw1 c val), fun _ => rfl⟩
  | icw2 c val => exact ⟨_, .write (.icw2 c val), fun _ => rfl⟩
  | icw3 c val => exact ⟨_, .write (.icw3 c val), fun _ => rfl⟩
  | icw4 c val => exact ⟨_, .write (.icw4 c val), fun _ => rfl⟩
  | wrElcr c val => exact ⟨_, .wrElcr c val, fun _ => rfl⟩
  | rdCmd c => exact ⟨_, .read _ c fun k => if k.readRegSelect then k.isr else k.irr, fun _ => rfl⟩
  | rdPoll c => exact ⟨_, .rdPoll c, fun _ => rfl⟩
  | rdData c => exact ⟨_, .read _ c ChipState.imr, fun _ => rfl⟩
  | rdElcr c => exact ⟨_, .read _ c ChipState.elcr, fun _ => rfl⟩
  | setLevel g level =>
    by_cases hg : g = 2
    · exact ⟨_, .refused _ .externalCascadeLine, fun _ => by simp only [exec, execSetLevel, hg, if_true]⟩
    · exact ⟨_, .write (.setLevel g level hg), fun s => exec_setLevel_of_ne g level s hg⟩
  | setLevelLine2 level => exact ⟨_, .refused _ .externalCascadeLine, fun _ => rfl⟩
  | inta => exact ⟨_, .inta, fun _ => rfl⟩
  | deviceReset => exact ⟨_, .deviceReset, fun _ => rfl⟩
  | coldReset => exact ⟨_, .coldReset, fun _ => rfl⟩
  | snapSave => exact ⟨_, .snapSave, fun _ => rfl⟩
  | snapRestore => exact ⟨_, .snapRestore, fun _ => rfl⟩
  | reservedPort rd c low => exact ⟨_, .refused _ .reservedEncoding, fun _ => rfl⟩
  | reservedPin low => exact ⟨_, .refused _ .reservedEncoding, fun _ => rfl⟩

/-- An operation that completes acted in one of the shapes. -/
theorem acts_of_exec {i : Instr} {s t : State} (h : exec i s = .next t) : ∃ F, Acts i F ∧ t = F s := by
  obtain ⟨F, hF, hexec⟩ := exec_acts i
  exact ⟨F, hF, by simpa using h.symm.trans (hexec s)⟩

/-- What a step that completes has done: nothing, the operation of the offer it took, or that offer's refusal. -/
theorem step_next_cases {s t : State} (h : step s = .next t) :
    t = s ∨ ∃ o rest, (∃ i, exec i (takeOffer o rest s) = .next t) ∨ ∃ r, t = refuse r (takeOffer o rest s) := by
  rcases step_cases s with ⟨f, -, hs⟩ | ⟨-, -, hs⟩ | ⟨o, rest, i, -, -, -, hs⟩ | ⟨o, rest, r, -, -, -, hs⟩
  · rw [hs] at h; cases h
  · rw [hs] at h; cases h; exact .inl rfl
  · exact .inr ⟨o, rest, .inl ⟨i, hs.symm.trans h⟩⟩
  · rw [hs] at h; cases h; exact .inr ⟨o, rest, .inr ⟨r, rfl⟩⟩

/-! ## The writes of one chip's registers -/

/-- A single write to the registers of chip `c` that operation `i` may make: its own, and those that come with a
recomputation, which are `out` and, on P, the cascade wire (40_arbitration.md R112, R113). -/
inductive ChipWrite (i : Instr) (c : Chip) : ChipState → ChipState → Prop where
  | register {f : ChipState → ChipState} (h : RegisterWrite i c f) (k : ChipState) : ChipWrite i c k (f k)
  | out (k : ChipState) (b : Bool) : ChipWrite i c k { k with out := b }
  | wire (hc : c = .primary) (k : ChipState) (b : Bool) : ChipWrite i c k (latchLevel Config.cascadeLine b k)
  | ack (hi : i = .inta) (k : ChipState) (l : Line) : ChipWrite i c k (ackLine l k)
  | retire (hi : i = .rdPoll c ∨ i = .rdPoll .secondary) (k : ChipState) (r : Line) :
      ChipWrite i c k (retireLine r k)
  | pollDone (hi : i = .rdPoll c) (k : ChipState) : ChipWrite i c k { k with poll := false }
  | elcr (val : Byte) (hi : i = .wrElcr c val) (k : ChipState) :
      ChipWrite i c k { k with elcr := elcrValue val k.elcrMask }
  | deviceReset (hi : i = .deviceReset) (k : ChipState) : ChipWrite i c k k.zeroed
  | coldReset (hi : i = .coldReset) (k : ChipState) : ChipWrite i c k k.coldZeroed
  | restore (hi : i = .snapRestore) (k : ChipState) (m : ChipImage) (hm : restorable k m = true) :
      ChipWrite i c k (chipOfImage m)

/-- The writes that operation `i` makes on chip `c`, one after the other. -/
abbrev ChipWrites (i : Instr) (c : Chip) : ChipState → ChipState → Prop := Relation.ReflTransGen (ChipWrite i c)

theorem setChip_writes {i : Instr} {c' : Chip} {s : State} {k : ChipState} (h : ChipWrite i c' (s.chip c') k)
    (c : Chip) : ChipWrites i c (s.chip c) ((s.setChip c' k).chip c) := by
  by_cases hc : c = c'
  · subst hc; rw [setChip_chip]; exact .single h
  · rw [setChip_chip_other _ _ _ _ hc]

theorem recomputeOutput_writes (i : Instr) (c' : Chip) (s : State) (c : Chip) :
    ChipWrites i c (s.chip c) ((recomputeOutput c' s).chip c) := by
  cases c' with
  | primary =>
    rw [recomputeOutput, recomputePrimary_eq]
    cases c with
    | primary => exact .single (.out _ _)
    | secondary => exact .refl
  | secondary =>
    rw [recomputeOutput, recomputeSecondary_eq]
    cases c with
    | primary => exact .tail (.single (.wire rfl _ _)) (.out _ _)
    | secondary => exact .single (.out _ _)

theorem updateAndRecompute_writes {i : Instr} {c' : Chip} {f : ChipState → ChipState} {s : State}
    (h : ChipWrite i c' (s.chip c') (f (s.chip c'))) (c : Chip) :
    ChipWrites i c (s.chip c) ((updateAndRecompute c' f s).chip c) :=
  (setChip_writes h c).trans (recomputeOutput_writes i c' _ c)

theorem intack_writes (c' : Chip) (line : Line) (s : State) (c : Chip) :
    ChipWrites .inta c (s.chip c) ((intack c' line s).chip c) :=
  updateAndRecompute_writes (.ack rfl _ _) c

theorem resolveVector_writes (s : State) (c : Chip) :
    ChipWrites .inta c (s.chip c) ((resolveVector s).2.chip c) := by
  rcases resolveVector_cases s with ⟨-, h⟩ | ⟨-, h⟩ <;> rw [h]
  · exact intack_writes _ _ _ _
  · exact (intack_writes _ _ _ _).trans (intack_writes _ _ _ _)

theorem pollRead_writes (c' : Chip) (s : State) (c : Chip) :
    ChipWrites (.rdPoll c') c (s.chip c) ((pollRead c' s).2.chip c) := by
  rcases pollRead_cases c' s with ⟨-, h⟩ | ⟨r, -, ⟨rfl, -, h⟩ | ⟨rfl, -, h⟩ | ⟨rfl, h⟩⟩ <;> rw [h]
  · exact setChip_writes (.retire (.inl rfl) _ _) c
  · exact updateAndRecompute_writes (.retire (.inl rfl) _ _) c
  · exact (setChip_writes (.retire (.inr rfl) _ _) c).trans (updateAndRecompute_writes (.retire (.inl rfl) _ _) c)

theorem polled_writes (c' : Chip) (s : State) (c : Chip) :
    ChipWrites (.rdPoll c') c (s.chip c) ((polled c' s).chip c) :=
  (pollRead_writes c' s c).trans (setChip_writes (.pollDone rfl _) c)

theorem resetWith_writes {i : Instr} {f : ChipState → ChipState} (h : ∀ c k, ChipWrite i c k (f k)) (s : State)
    (c : Chip) : ChipWrites i c (s.chip c) ((resetWith f s).chip c) := by
  have hboth : ChipWrite i c (s.chip c)
      (State.chip { s with primary := f s.primary, secondary := f s.secondary } c) := by
    cases c <;> exact h _ _
  exact (Relation.ReflTransGen.single hboth).trans
    ((recomputeOutput_writes i _ _ c).trans (recomputeOutput_writes i _ _ c))

theorem restoreImage_writes (m : PairImage) (s : State) (c : Chip) :
    ChipWrites .snapRestore c (s.chip c) ((restoreImage m s).chip c) := by
  rcases restoreImage_cases m s with ⟨hP, hS, h⟩ | h <;> rw [h]
  · cases c with
    | primary => exact .single (.restore rfl _ _ hP)
    | secondary => exact .single (.restore rfl _ _ hS)
  · rw [refuse_chip]

/-- What an operation does to a chip is a sequence of its writes. -/
theorem exec_writes {i : Instr} {s t : State} (h : exec i s = .next t) (c : Chip) :
    ChipWrites i c (s.chip c) (t.chip c) := by
  obtain ⟨F, hF, rfl⟩ := acts_of_exec h
  cases hF with
  | write hw => exact updateAndRecompute_writes (.register hw _) c
  | wrElcr c' val => exact setChip_writes (.elcr val rfl _) c
  | read _ c' f => rw [emit_chip]
  | rdPoll c' => rw [emit_chip]; exact polled_writes c' s c
  | inta => rw [emit_chip]; exact resolveVector_writes s c
  | deviceReset => exact resetWith_writes (fun _ k => .deviceReset rfl k) s c
  | coldReset => exact resetWith_writes (fun _ k => .coldReset rfl k) s c
  | snapSave => cases c <;> exact .refl
  | snapRestore => exact restoreImage_writes _ s c
  | fatal c' val => rw [raiseFatal_chip]
  | refused _ r => rw [refuse_chip]

/-- A property of chips that every single write keeps is kept by the operation. -/
theorem exec_keeps {i : Instr} {s t : State} {c : Chip} (P : ChipState → Prop)
    (hP : ∀ k k', ChipWrite i c k k' → P k → P k') (h : exec i s = .next t) (hs : P (s.chip c)) : P (t.chip c) := by
  have hwrites := exec_writes h c
  generalize t.chip c = k' at hwrites
  induction hwrites with
  | refl => exact hs
  | tail _ hw ih => exact hP _ _ hw ih

/-- A property of chips that every single write keeps is kept by the step. -/
theorem step_keeps {s t : State} {c : Chip} (P : ChipState → Prop)
    (hP : ∀ i k k', ChipWrite i c k k' → P k → P k') (h : step s = .next t) (hs : P (s.chip c)) : P (t.chip c) := by
  rcases step_next_cases h with rfl | ⟨o, rest, ⟨i, hi⟩ | ⟨r, rfl⟩⟩
  · exact hs
  · exact exec_keeps P (hP i) hi (by rwa [takeOffer_chip])
  · rwa [refuse_chip, takeOffer_chip]

/-! ## What an operation shows the host -/

/-- From `s` to `t` the pair has emitted `es`, been refused for `rs` and handed out `ss` (10_state.md R40); the mark of
a refusal is set if there was one. -/
structure Observed (es : List Event) (rs : List RefuseReason) (ss : List PairImage) (s t : State) : Prop where
  events : t.events = s.events ++ es
  refusals : t.refusals = s.refusals ++ rs
  snapshots : t.snapshots = s.snapshots ++ ss
  refused : t.refused = (s.refused || !rs.isEmpty)

/-- Nothing observed. -/
theorem Observed.nothing {s t : State} (hevents : t.events = s.events) (hrefusals : t.refusals = s.refusals)
    (hsnapshots : t.snapshots = s.snapshots) (hrefused : t.refused = s.refused) : Observed [] [] [] s t :=
  ⟨by simp [hevents], by simp [hrefusals], by simp [hsnapshots], by simp [hrefused]⟩

theorem Observed.refl (s : State) : Observed [] [] [] s s := .nothing rfl rfl rfl rfl

theorem Observed.trans {es es' : List Event} {rs rs' : List RefuseReason} {ss ss' : List PairImage} {s t u : State}
    (h : Observed es rs ss s t) (h' : Observed es' rs' ss' t u) :
    Observed (es ++ es') (rs ++ rs') (ss ++ ss') s u where
  events := by rw [h'.events, h.events, List.append_assoc]
  refusals := by rw [h'.refusals, h.refusals, List.append_assoc]
  snapshots := by rw [h'.snapshots, h.snapshots, List.append_assoc]
  refused := by rw [h'.refused, h.refused, Bool.or_assoc]; cases rs <;> rfl

theorem observed_setChip (c : Chip) (k : ChipState) (s : State) : Observed [] [] [] s (s.setChip c k) := by
  cases c <;> exact .nothing rfl rfl rfl rfl

theorem observed_emit (e : Event) (s : State) : Observed [e] [] [] s (s.emit e) :=
  ⟨rfl, by simp, by simp, by simp⟩

theorem observed_refuse (r : RefuseReason) (s : State) : Observed [] [r] [] s (refuse r s) :=
  ⟨by simp, rfl, by simp, by simp⟩

/-- The offer taken is nothing the host observes. -/
theorem observed_takeOffer (o : Offer) (rest : List Offer) (s : State) :
    Observed [] [] [] s (takeOffer o rest s) := .nothing rfl rfl rfl rfl

/-! ## The chips decide -/

/-- The two pairs have the same chips. -/
structure SameChips (s u : State) : Prop where
  primary : u.primary = s.primary
  secondary : u.secondary = s.secondary

theorem SameChips.chip {s u : State} (h : SameChips s u) (c : Chip) : u.chip c = s.chip c := by
  cases c
  · exact h.primary
  · exact h.secondary

/-- From `s` to `t` and from `u` to `v` the same has happened: the chips are the same after it, and the host has
observed the same. -/
structure SameEffect (s u t v : State) : Prop where
  chips : SameChips t v
  observed : ∃ es rs ss, Observed es rs ss s t ∧ Observed es rs ss u v

theorem SameEffect.refl {s u : State} (h : SameChips s u) : SameEffect s u s u :=
  ⟨h, [], [], [], .refl s, .refl u⟩

theorem SameEffect.trans {s u t v t' v' : State} (h : SameEffect s u t v) (h' : SameEffect t v t' v') :
    SameEffect s u t' v' := by
  obtain ⟨es, rs, ss, ht, hv⟩ := h.observed
  obtain ⟨es', rs', ss', ht', hv'⟩ := h'.observed
  exact ⟨h'.chips, _, _, _, ht.trans ht', hv.trans hv'⟩

/-- The same event after the same effect. -/
theorem SameEffect.emit {s u t v : State} (h : SameEffect s u t v) {e e' : Event} (he : e' = e) :
    SameEffect s u (t.emit e) (v.emit e') :=
  h.trans ⟨⟨h.chips.primary, h.chips.secondary⟩, _, _, _, observed_emit e t, he ▸ observed_emit e' v⟩

/-- `F` does the same to any two pairs with the same chips. -/
def DeterminedByChips (F : State → State) : Prop := ∀ s u, SameChips s u → SameEffect s u (F s) (F u)

theorem DeterminedByChips.comp {F G : State → State} (hG : DeterminedByChips G) (hF : DeterminedByChips F) :
    DeterminedByChips fun s => G (F s) := fun s u h =>
  (hF s u h).trans (hG _ _ (hF s u h).chips)

theorem setChip_determined (c : Chip) (f : ChipState → ChipState) :
    DeterminedByChips fun s => s.setChip c (f (s.chip c)) := fun s u h => by
  refine ⟨?_, [], [], [], observed_setChip _ _ _, observed_setChip _ _ _⟩
  simp only [h.chip c]
  cases c
  · exact ⟨rfl, h.secondary⟩
  · exact ⟨h.primary, rfl⟩

theorem refuse_determined (r : RefuseReason) : DeterminedByChips (refuse r) := fun _ _ h =>
  ⟨⟨h.primary, h.secondary⟩, _, _, _, observed_refuse _ _, observed_refuse _ _⟩

/-- A recomputation emits the notices of P's change alone. -/
theorem observed_recomputeOutput (c : Chip) (s : State) :
    Observed (notices s.primary.out (recomputeOutput c s).primary.out) [] [] s (recomputeOutput c s) := by
  have h := recomputeOutput_spec c s
  exact ⟨h.events, by simp [h.pair.refusals], by simp [h.pair.snapshots], by simp [h.pair.refused]⟩

theorem recomputeOutput_determined (c : Chip) : DeterminedByChips (recomputeOutput c) := fun s u h => by
  have hchips : SameChips (recomputeOutput c s) (recomputeOutput c u) := by
    cases c with
    | primary =>
      simp only [recomputeOutput, recomputePrimary_eq]
      exact ⟨by simp only [h.primary], h.secondary⟩
    | secondary =>
      simp only [recomputeOutput, recomputeSecondary_eq]
      exact ⟨by simp only [h.primary, h.secondary], by simp only [h.secondary]⟩
  have hu := observed_recomputeOutput c u
  rw [h.primary, hchips.primary] at hu
  exact ⟨hchips, _, _, _, observed_recomputeOutput c s, hu⟩

theorem updateAndRecompute_determined (c : Chip) (f : ChipState → ChipState) :
    DeterminedByChips (updateAndRecompute c f) :=
  (recomputeOutput_determined c).comp (setChip_determined c f)

theorem resetWith_determined (f : ChipState → ChipState) : DeterminedByChips (resetWith f) :=
  (recomputeOutput_determined .primary).comp
    ((recomputeOutput_determined .secondary).comp
      ((setChip_determined .secondary f).comp (setChip_determined .primary f)))

theorem intack_determined (c : Chip) (line : Line) : DeterminedByChips (intack c line) :=
  updateAndRecompute_determined c (ackLine line)

/-- INTA's vector, and what its acknowledges do. -/
theorem resolveVector_determined {s u : State} (h : SameChips s u) :
    (resolveVector u).1 = (resolveVector s).1 ∧ SameEffect s u (resolveVector s).2 (resolveVector u).2 := by
  simp only [resolveVector, h.primary, h.secondary]
  split
  · have hS := intack_determined .secondary (ackedLine .secondary s.secondary) s u h
    exact ⟨rfl, hS.trans (intack_determined .primary _ _ _ hS.chips)⟩
  · exact ⟨rfl, intack_determined .primary _ s u h⟩

/-- A poll read's byte, and what it does. -/
theorem pollRead_determined (c : Chip) {s u : State} (h : SameChips s u) :
    (pollRead c u).1 = (pollRead c s).1 ∧ SameEffect s u (pollRead c s).2 (pollRead c u).2 := by
  simp only [pollRead, h.chip c]
  cases pendingIrq c (s.chip c) with
  | none => exact ⟨rfl, .refl h⟩
  | some r =>
    refine ⟨rfl, ?_⟩
    cases c with
    | primary =>
      by_cases hr : r = Config.cascadeLine
      · simp only [hr, and_self, if_true]
        exact setChip_determined .primary (retireLine Config.cascadeLine) s u h
      · simp only [hr, and_false, if_false]
        exact updateAndRecompute_determined .primary (retireLine r) s u h
    | secondary =>
      simp only [reduceCtorEq, false_and, if_false]
      exact (updateAndRecompute_determined .secondary (retireLine r)).comp
        (setChip_determined .primary (retireLine Config.cascadeLine)) s u h

theorem restoreImage_determined (m : PairImage) : DeterminedByChips (restoreImage m) := fun s u h => by
  simp only [restoreImage, h.primary, h.secondary]
  split
  · exact ⟨⟨rfl, rfl⟩, [], [], [], .nothing rfl rfl rfl rfl, .nothing rfl rfl rfl rfl⟩
  · exact refuse_determined _ s u h

/-- An operation does the same to any two pairs with the same chips and, for a restore, the same payload. -/
theorem acts_sameEffect {i : Instr} {F : State → State} (hF : Acts i F) {s u : State} (h : SameChips s u)
    (hpayload : i = .snapRestore → s.payload = u.payload) : SameEffect s u (F s) (F u) := by
  cases hF with
  | write hw => exact updateAndRecompute_determined _ _ s u h
  | wrElcr c val => exact setChip_determined c (fun k => { k with elcr := elcrValue val k.elcrMask }) s u h
  | read _ c f => exact (SameEffect.refl h).emit (by rw [h.chip c])
  | rdPoll c =>
    obtain ⟨hbyte, hread⟩ := pollRead_determined c h
    have hpolled : SameEffect s u (polled c s) (polled c u) :=
      hread.trans (setChip_determined c (fun k => { k with poll := false }) _ _ hread.chips)
    exact hpolled.emit (by rw [hbyte])
  | inta =>
    obtain ⟨hvector, hacks⟩ := resolveVector_determined h
    exact hacks.emit (by rw [hvector])
  | deviceReset => exact resetWith_determined _ s u h
  | coldReset => exact resetWith_determined _ s u h
  | snapSave =>
    have himage : imageOf u = imageOf s := by rw [imageOf, imageOf, h.primary, h.secondary]
    exact ⟨⟨h.primary, h.secondary⟩, [], [], [imageOf s], ⟨by simp, by simp, rfl, by simp⟩,
      ⟨by simp, by simp, himage ▸ rfl, by simp⟩⟩
  | snapRestore => simp only [← hpayload rfl]; exact restoreImage_determined _ s u h
  | fatal c val =>
    exact ⟨⟨h.primary, h.secondary⟩, [], [], [], .nothing rfl rfl rfl rfl, .nothing rfl rfl rfl rfl⟩
  | refused _ r => exact refuse_determined r s u h

/-- Settles O53: every operation acts as a function, and each of the shapes does the same to pairs with the same
chips. -/
theorem chipsDetermineBehaviour : Obligations.ChipsDetermineBehaviour := by
  intro i s u t hP hS hpayload hexec
  obtain ⟨F, hF, hact⟩ := exec_acts i
  have ht : t = F s := by simpa using hexec.symm.trans (hact s)
  subst ht
  obtain ⟨hchips, es, rs, ss, hs, hu⟩ := acts_sameEffect hF ⟨hP.symm, hS.symm⟩ hpayload
  exact ⟨F u, es, rs, ss, hact u, hchips.primary, hchips.secondary, hs.events, hu.events, hs.refusals, hu.refusals,
    hs.snapshots, hu.snapshots⟩

/-! ## Every step -/

theorem exec_observed {i : Instr} {s t : State} (h : exec i s = .next t) : ∃ es rs ss, Observed es rs ss s t := by
  obtain ⟨F, hF, rfl⟩ := acts_of_exec h
  obtain ⟨es, rs, ss, ht, -⟩ := (acts_sameEffect hF (s := s) ⟨rfl, rfl⟩ fun _ => rfl).observed
  exact ⟨es, rs, ss, ht⟩

/-- A step only adds to what the host has observed. -/
theorem step_observed {s t : State} (h : step s = .next t) : ∃ es rs ss, Observed es rs ss s t := by
  rcases step_next_cases h with rfl | ⟨o, rest, ⟨i, hi⟩ | ⟨r, rfl⟩⟩
  · exact ⟨_, _, _, .refl _⟩
  · obtain ⟨es, rs, ss, ht⟩ := exec_observed hi
    exact ⟨_, _, _, (observed_takeOffer o rest s).trans ht⟩
  · exact ⟨_, _, _, (observed_takeOffer o rest s).trans (observed_refuse r _)⟩

/-- Settles O54: a step only adds to each list, and the mark is the old mark or a new refusal. -/
theorem marksAndObservationsArePermanent : Obligations.MarksAndObservationsArePermanent := by
  intro s t h
  obtain ⟨es, rs, ss, ht⟩ := step_observed h
  refine ⟨fun hs => ?_, ⟨es, ht.events.symm⟩, ⟨rs, ht.refusals.symm⟩, ⟨ss, ht.snapshots.symm⟩⟩
  rw [ht.refused, hs, Bool.true_or]

end Sys2Proof.Machine
end

section
/-! SUPPORT. The invariants of the pair (10_state.md R44), and who writes a chip's registers (R22 to R37): each is a
fact about the single writes of an operation, lifted to the operation or the step. -/

namespace Sys2Proof.Machine

/-! ## Invariants (10_state.md R44) -/

theorem vectorBase_and_low (val : Byte) : vectorBase val &&& 0x07 = 0 := by
  rw [vectorBase, BitVec.and_assoc]
  exact BitVec.and_zero

theorem elcrValue_and_not_mask (val mask : Byte) : elcrValue val mask &&& ~~~ mask = 0 := by
  rw [elcrValue, BitVec.and_assoc]
  simp

/-- A write that ends with a recomputation leaves `elcr` and its mask alone. -/
theorem RegisterWrite.elcr_eq {i : Instr} {c : Chip} {f : ChipState → ChipState} (h : RegisterWrite i c f)
    (k : ChipState) : (f k).elcr = k.elcr ∧ (f k).elcrMask = k.elcrMask := by
  cases h with
  | eoi | rotEoi | setLevel => constructor <;> simp
  | _ => exact ⟨rfl, rfl⟩

/-- The vector base is left alone but for ICW1, which zeroes it, and ICW2, which masks its low bits. -/
theorem RegisterWrite.irqBase_low {i : Instr} {c : Chip} {f : ChipState → ChipState} (h : RegisterWrite i c f)
    (k : ChipState) (hk : k.irqBase &&& 0x07 = 0) : (f k).irqBase &&& 0x07 = 0 := by
  cases h with
  | icw1 => exact BitVec.zero_and
  | icw2 _ val => exact vectorBase_and_low val
  | eoi | rotEoi | setLevel => simpa using hk
  | _ => exact hk

theorem ChipWrite.elcrMask_eq {i : Instr} {c : Chip} {k k' : ChipState} (h : ChipWrite i c k k') :
    k'.elcrMask = k.elcrMask := by
  cases h with
  | register hw => exact (hw.elcr_eq k).2
  | wire | ack => simp
  | restore _ _ m hm => exact (restorable_spec k m hm).2.1
  | _ => rfl

theorem ChipWrite.chipInv {i : Instr} {c : Chip} {k k' : ChipState} (h : ChipWrite i c k k') (hk : ChipInv k) :
    ChipInv k' := by
  obtain ⟨hbase, helcr⟩ := hk
  cases h with
  | register hw =>
    obtain ⟨he, hm⟩ := hw.elcr_eq k
    exact ⟨hw.irqBase_low k hbase, by rw [he, hm, helcr]⟩
  | wire | ack => exact ⟨by simpa using hbase, by simpa using helcr⟩
  | elcr val => exact ⟨hbase, elcrValue_and_not_mask _ _⟩
  | deviceReset => exact ⟨BitVec.zero_and, helcr⟩
  | coldReset => exact ⟨BitVec.zero_and, BitVec.zero_and⟩
  | restore _ _ m hm => exact (restorable_spec k m hm).2.2
  | _ => exact ⟨hbase, helcr⟩

/-- New refusals keep the mark in agreement with the reasons. -/
theorem Observed.mark_iff {es : List Event} {rs : List RefuseReason} {ss : List PairImage} {s t : State}
    (h : Observed es rs ss s t) (hs : s.refused = true ↔ s.refusals ≠ []) :
    t.refused = true ↔ t.refusals ≠ [] := by
  rw [h.refused, h.refusals, Bool.or_eq_true, hs]
  cases rs <;> simp

/-- Settles O48: no single write breaks a chip's invariant, and a refusal sets the mark and adds a reason together. -/
theorem stepKeepsTheInvariants : Obligations.StepKeepsTheInvariants := by
  intro s t ⟨hP, hS, hmark⟩ h
  obtain ⟨es, rs, ss, hobs⟩ := step_observed h
  exact ⟨step_keeps (c := .primary) ChipInv (fun _ _ _ => ChipWrite.chipInv) h hP,
    step_keeps (c := .secondary) ChipInv (fun _ _ _ => ChipWrite.chipInv) h hS, hobs.mark_iff hmark⟩

/-- Settles O50: no single write changes the mask. -/
theorem elcrMasksNeverChange : Obligations.ElcrMasksNeverChange := by
  intro s t h
  have hmask : ∀ c, (t.chip c).elcrMask = (s.chip c).elcrMask := fun c =>
    step_keeps (fun k => k.elcrMask = (s.chip c).elcrMask) (fun _ _ _ hw hk => hw.elcrMask_eq.trans hk) h rfl
  exact ⟨hmask .primary, hmask .secondary⟩

theorem chipInv_constructed (mask : Byte) : ChipInv (.constructed mask) := ⟨BitVec.zero_and, BitVec.zero_and⟩

theorem inv_constructed (maskP maskS : Byte) : Inv (.constructed maskP maskS) :=
  ⟨chipInv_constructed maskP, chipInv_constructed maskS, by simp [State.constructed]⟩

/-- Settles O49: `irq_base` and `elcr` are 0 at construction, whatever the masks. -/
theorem constructionMeetsTheInvariants : Obligations.ConstructionMeetsTheInvariants :=
  ⟨inv_constructed _ _, fun maskP maskS => ⟨inv_constructed maskP maskS, rfl, rfl⟩⟩

/-! ## The in-service register (10_state.md R25) -/

/-- A bit set after another is cleared was set before. -/
theorem bit_of_setBit_false {m : Byte} {i j : Line} (h : bit (setBit m i false) j = true) : bit m j = true := by
  rw [bit_setBit] at h
  split at h
  · cases h
  · exact h

theorem bit_of_nonSpecificEoi {k : ChipState} {j : Line} (h : bit (nonSpecificEoi k).isr j = true) :
    bit k.isr j = true := by
  unfold nonSpecificEoi at h
  cases hq : highestInService k with
  | none => rwa [hq] at h
  | some q => rw [hq] at h; exact bit_of_setBit_false h

theorem nonSpecificEoiRotate_isr (k : ChipState) : (nonSpecificEoiRotate k).isr = (nonSpecificEoi k).isr := by
  unfold nonSpecificEoiRotate nonSpecificEoi
  cases highestInService k <;> rfl

theorem RegisterWrite.isr_of_bit {i : Instr} {c : Chip} {f : ChipState → ChipState} (h : RegisterWrite i c f)
    {k : ChipState} {j : Line} (hj : bit (f k).isr j = true) : bit k.isr j = true := by
  cases h with
  | icw1 => exact absurd (bit_zero j ▸ hj) Bool.false_ne_true
  | eoi => exact bit_of_nonSpecificEoi hj
  | rotEoi => rw [nonSpecificEoiRotate_isr] at hj; exact bit_of_nonSpecificEoi hj
  | seoi | rotSeoi => exact bit_of_setBit_false hj
  | setLevel => simpa using hj
  | _ => exact hj

theorem ChipWrite.isr_of_bit {i : Instr} {c : Chip} {k k' : ChipState} (h : ChipWrite i c k k') (hinta : i ≠ .inta)
    (hrestore : i ≠ .snapRestore) {j : Line} (hj : bit k'.isr j = true) : bit k.isr j = true := by
  cases h with
  | register hw => exact hw.isr_of_bit hj
  | wire => simpa using hj
  | ack hi => exact absurd hi hinta
  | retire => exact bit_of_setBit_false hj
  | deviceReset | coldReset => exact absurd (bit_zero j ▸ hj) Bool.false_ne_true
  | restore hi => exact absurd hi hrestore
  | _ => exact hj

/-- Settles O55: of the single writes only an acknowledge and a restore set a bit of `isr`. -/
theorem onlyIntaPutsALineInService : Obligations.OnlyIntaPutsALineInService := by
  intro i s t c j h hinta hrestore
  exact exec_keeps (fun k => bit k.isr j = true → bit (s.chip c).isr j = true)
    (fun _ _ hw hk hj => hk (hw.isr_of_bit hinta hrestore hj)) h id

/-! ## The control fields (10_state.md R24, R26 to R37) -/

/-- From `k` to `k'` operation `i` has changed no control field of chip `c` of which it is no writer. -/
structure ControlKept (i : Instr) (c : Chip) (k k' : ChipState) : Prop where
  imr : (∀ val, i ≠ .ocw1 c val) → k'.imr = k.imr
  irqBase : (∀ val, i ≠ .icw2 c val) → k'.irqBase = k.irqBase
  ocw3Fields : (∀ val, i ≠ .ocw3 c val) → k'.readRegSelect = k.readRegSelect ∧ k'.specialMask = k.specialMask
  poll : (∀ val, i ≠ .ocw3 c val) → i ≠ .rdPoll c → k'.poll = k.poll
  icw4Fields : (∀ val, i ≠ .icw4 c val) →
    k'.autoEoi = k.autoEoi ∧ k'.specialFullyNestedMode = k.specialFullyNestedMode
  rotateOnAutoEoi : (∀ l, i ≠ .ocw2ClrRotaeoi c l) → (∀ l, i ≠ .ocw2SetRotaeoi c l) →
    k'.rotateOnAutoEoi = k.rotateOnAutoEoi
  icw1Fields : k'.singleMode = k.singleMode ∧ k'.init4 = k.init4
  priorityAdd : (∀ l, i ≠ .ocw2RotEoi c l) → (∀ l, i ≠ .ocw2Setpri c l) → (∀ l, i ≠ .ocw2RotSeoi c l) →
    i ≠ .inta → k'.priorityAdd = k.priorityAdd

theorem RegisterWrite.controlKept {i : Instr} {c : Chip} {f : ChipState → ChipState} (h : RegisterWrite i c f)
    (hr : ¬ Reinitialises i c) (k : ChipState) : ControlKept i c k (f k) := by
  cases h with
  | icw1 _ val => exact absurd (.inl ⟨val, rfl⟩) hr
  | _ => constructor <;> simp [loadOcw3, loadIcw4]

theorem ChipWrite.controlKept {i : Instr} {c : Chip} {k k' : ChipState} (h : ChipWrite i c k k')
    (hr : ¬ Reinitialises i c) : ControlKept i c k k' := by
  cases h with
  | register hw => exact hw.controlKept hr k
  | deviceReset hi => exact absurd (.inr (.inl hi)) hr
  | coldReset hi => exact absurd (.inr (.inr (.inl hi))) hr
  | restore hi => exact absurd (.inr (.inr (.inr hi))) hr
  | ack hi => constructor <;> simp [hi]
  | pollDone hi => constructor <;> simp [hi]
  | _ => constructor <;> simp

theorem ControlKept.refl (i : Instr) (c : Chip) (k : ChipState) : ControlKept i c k k := by
  constructor <;> simp

theorem ControlKept.trans {i : Instr} {c : Chip} {k k' k'' : ChipState} (h : ControlKept i c k k')
    (h' : ControlKept i c k' k'') : ControlKept i c k k'' where
  imr h1 := (h'.imr h1).trans (h.imr h1)
  irqBase h1 := (h'.irqBase h1).trans (h.irqBase h1)
  ocw3Fields h1 :=
    ⟨(h'.ocw3Fields h1).1.trans (h.ocw3Fields h1).1, (h'.ocw3Fields h1).2.trans (h.ocw3Fields h1).2⟩
  poll h1 h2 := (h'.poll h1 h2).trans (h.poll h1 h2)
  icw4Fields h1 :=
    ⟨(h'.icw4Fields h1).1.trans (h.icw4Fields h1).1, (h'.icw4Fields h1).2.trans (h.icw4Fields h1).2⟩
  rotateOnAutoEoi h1 h2 := (h'.rotateOnAutoEoi h1 h2).trans (h.rotateOnAutoEoi h1 h2)
  icw1Fields := ⟨h'.icw1Fields.1.trans h.icw1Fields.1, h'.icw1Fields.2.trans h.icw1Fields.2⟩
  priorityAdd h1 h2 h3 h4 := (h'.priorityAdd h1 h2 h3 h4).trans (h.priorityAdd h1 h2 h3 h4)

theorem exec_controlKept {i : Instr} {s t : State} {c : Chip} (h : exec i s = .next t) (hr : ¬ Reinitialises i c) :
    ControlKept i c (s.chip c) (t.chip c) :=
  exec_keeps (ControlKept i c (s.chip c)) (fun _ _ hw hk => hk.trans (hw.controlKept hr)) h (.refl i c _)

/-- `elcr` is written by WR_ELCR, a cold reset and a restore alone (R37). -/
theorem ChipWrite.elcr_eq {i : Instr} {c : Chip} {k k' : ChipState} (h : ChipWrite i c k k')
    (hwrite : ∀ val, i ≠ .wrElcr c val) (hcold : i ≠ .coldReset) (hrestore : i ≠ .snapRestore) :
    k'.elcr = k.elcr := by
  cases h with
  | register hw => exact (hw.elcr_eq k).1
  | wire | ack => simp
  | elcr val hi => exact absurd hi (hwrite val)
  | coldReset hi => exact absurd hi hcold
  | restore hi => exact absurd hi hrestore
  | _ => rfl

/-- Settles O59: each single write keeps the control fields it is no writer of, so their sequence does. -/
theorem controlFieldsHaveOnlyTheirWriters : Obligations.ControlFieldsHaveOnlyTheirWriters := by
  intro i s t c h
  refine ⟨fun hwrite hcold hrestore => ?_, fun hr => ?_⟩
  · exact exec_keeps (fun k => k.elcr = (s.chip c).elcr)
      (fun _ _ hw hk => (hw.elcr_eq hwrite hcold hrestore).trans hk) h rfl
  · have hk := exec_controlKept h hr
    exact ⟨hk.imr, hk.irqBase, hk.ocw3Fields, hk.poll, hk.icw4Fields, hk.rotateOnAutoEoi, hk.icw1Fields.1,
      hk.icw1Fields.2, hk.priorityAdd⟩

/-! ## The request register (10_state.md R22) -/

/-- What the arbiter presents, line by line (40_arbitration.md R111). -/
theorem presented_of_pendingIrq {c : Chip} {k : ChipState} {r : Line} (h : pendingIrq c k = some r) :
    Presented c k r := by
  obtain ⟨hlt, rfl⟩ := (pendingIrq_eq_some c k r).mp h
  have hblock := priority_le_eight k.priorityAdd (inServiceSet c k)
  have hne : priority k.priorityAdd (pendingSet k) ≠ 8 := by omega
  have hrank := rank_lineAt k.priorityAdd _ (priority_lt_of_ne _ _ hne)
  refine ⟨(bit_pendingSet_iff k _).mp (bit_lineAt_priority _ _ hne), fun q hq => ?_, fun q hq => ?_⟩
  · rw [hrank]
    exact priority_le_rank _ _ _ ((bit_pendingSet_iff k q).mpr hq)
  · rw [hrank]
    exact lt_of_lt_of_le hlt (priority_le_rank _ _ _ ((bit_inServiceSet_iff c k q).mpr hq))

/-- An acknowledge takes the cascade line only when P presents it; the spurious line is 7. -/
theorem presented_of_ackedLine {c : Chip} {k : ChipState} (h : ackedLine c k = 2) : Presented c k 2 := by
  unfold ackedLine at h
  cases hp : pendingIrq c k with
  | none => rw [hp] at h; exact absurd h (by decide)
  | some r =>
    rw [hp, Option.getD_some] at h
    exact presented_of_pendingIrq (h ▸ hp)

/-- A device's line of S is a global line from 8. -/
theorem globalChip_eq_secondary {g : GlobalLine} (h : globalChip g = .secondary) : 8 ≤ g.toNat := by
  revert g; decide

theorem RegisterWrite.recomputesSecondary {i : Instr} {f : ChipState → ChipState}
    (h : RegisterWrite i .secondary f) (s : State) : RecomputesSecondary i s := by
  generalize hc : Chip.secondary = c at h
  cases h with
  | setLevel g => exact globalChip_eq_secondary hc.symm
  | _ => exact hc.symm

/-- Of the writes of a register operation only an assertion sets a request: on its line, if that is level-sensitive or
was low (41_request_lines.md R131). -/
theorem RegisterWrite.sets_irr {i : Instr} {c : Chip} {f : ChipState → ChipState} (h : RegisterWrite i c f)
    {k : ChipState} {j : Line} (hk : bit k.irr j = false) (hf : bit (f k).irr j = true) :
    (∃ g, i = .setLevel g true ∧ globalChip g = c ∧ globalLocal g = j) ∧
      (bit k.elcr j = true ∨ bit k.lastIrr j = false) := by
  cases h with
  | icw1 => exact absurd (bit_zero j ▸ hf) Bool.false_ne_true
  | setLevel g level =>
    rw [(latchLevel_spec _ _ _).irr j] at hf
    by_cases hj : j = globalLocal g
    · subst hj
      cases level <;> simp_all
    · simp_all
  | _ => simp_all [loadOcw3, loadIcw4]

/-- From `s` to `t` S's output came to be high on the wire to P's line 2, which is level-sensitive or was low before
(40_arbitration.md R113). -/
def SetByTheWire (s t : State) (c : Chip) (j : Line) : Prop :=
  c = .primary ∧ j = 2 ∧ t.secondary.out = true ∧ (bit s.primary.elcr 2 = true ∨ bit s.primary.lastIrr 2 = false)

/-- The wire may set a request at an operation that recomputes S. -/
theorem SetByTheWire.maySetRequest {i : Instr} {s t : State} {c : Chip} {j : Line} (h : SetByTheWire s t c j)
    (hi : RecomputesSecondary i s) : MaySetRequest i s t c j := by
  obtain ⟨rfl, rfl, hout, hline⟩ := h
  exact ⟨.inr ⟨rfl, rfl, hi, hout⟩, hline⟩

/-- A write of registers and the recomputation after it set a request only by the write, or by the wire. -/
theorem updateAndRecompute_sets_irr {c' c : Chip} {f : ChipState → ChipState} {s : State} {j : Line}
    (h : bit (s.chip c).irr j = false) (h' : bit ((updateAndRecompute c' f s).chip c).irr j = true) :
    (c' = c ∧ bit (f (s.chip c)).irr j = true) ∨
    (c' = .secondary ∧ SetByTheWire s (updateAndRecompute c' f s) c j) := by
  cases hset : bit ((s.setChip c' (f (s.chip c'))).chip c).irr j with
  | true =>
    by_cases hc : c = c'
    · subst hc; rw [setChip_chip] at hset; exact .inl ⟨rfl, hset⟩
    · rw [setChip_chip_other _ _ _ _ hc, h] at hset; cases hset
  | false =>
    obtain ⟨rfl, rfl, rfl, hout, hline⟩ := recomputeOutput_sets_irr c' c _ j hset h'
    exact .inr ⟨rfl, rfl, rfl, hout, hline⟩

theorem bit_ackLine_irr {l j : Line} {k : ChipState} (h : bit k.irr j = false) : bit (ackLine l k).irr j = false := by
  rw [(ackLine_spec l k).irr j]
  by_cases hj : j = l
  · subst hj; simp [h]
  · simp [hj, h]

theorem bit_retireLine_irr {r j : Line} {k : ChipState} (h : bit k.irr j = false) :
    bit (retireLine r k).irr j = false := by simp [h]

/-- An acknowledge sets a request only by the wire, and then it is one of S. -/
theorem intack_sets_irr {c' c : Chip} {line j : Line} {s : State} (h : bit (s.chip c).irr j = false)
    (h' : bit ((intack c' line s).chip c).irr j = true) :
    c' = .secondary ∧ SetByTheWire s (intack c' line s) c j := by
  rcases updateAndRecompute_sets_irr h h' with ⟨-, hack⟩ | hwire
  · rw [bit_ackLine_irr h] at hack; cases hack
  · exact hwire

/-- An acknowledge of P leaves S alone. -/
theorem intack_primary_secondary (line : Line) (s : State) : (intack .primary line s).secondary = s.secondary :=
  recomputePrimary_secondary _

/-- INTA sets a request only by the wire, when it takes the cascade line. -/
theorem resolveVector_sets_irr {c : Chip} {j : Line} {s : State} (h : bit (s.chip c).irr j = false)
    (h' : bit ((resolveVector s).2.chip c).irr j = true) :
    RecomputesSecondary .inta s ∧ SetByTheWire s (resolveVector s).2 c j := by
  rcases resolveVector_cases s with ⟨-, hv⟩ | ⟨hcascade, hv⟩ <;> rw [hv] at h' ⊢
  · cases (intack_sets_irr h h').1
  · refine ⟨presented_of_ackedLine hcascade, ?_⟩
    cases hmid : bit ((intack .secondary (ackedLine .secondary s.secondary) s).chip c).irr j with
    | false => cases (intack_sets_irr hmid h').1
    | true =>
      obtain ⟨-, hc, hj, hout, hline⟩ := intack_sets_irr h hmid
      exact ⟨hc, hj, by rw [intack_primary_secondary, hout], hline⟩

/-- A field that the new chip state shares with the old one. -/
theorem setChip_field {α : Sort _} (f : ChipState → α) {c' : Chip} {k : ChipState} {s : State}
    (h : f k = f (s.chip c')) (c : Chip) : f ((s.setChip c' k).chip c) = f (s.chip c) := by
  by_cases hc : c = c'
  · subst hc; rw [setChip_chip, h]
  · rw [setChip_chip_other _ _ _ _ hc]

/-- The end of a poll read clears `poll` alone. -/
theorem polled_field {α : Sort _} (f : ChipState → α) (hf : ∀ k, f { k with poll := false } = f k) (c' : Chip)
    (s : State) (c : Chip) : f ((polled c' s).chip c) = f ((pollRead c' s).2.chip c) :=
  setChip_field f (hf _) c

/-- A poll read sets a request only by the wire, when it is one of S that finds a line. -/
theorem pollRead_sets_irr {c' c : Chip} {j : Line} {s : State} (h : bit (s.chip c).irr j = false)
    (h' : bit ((pollRead c' s).2.chip c).irr j = true) :
    RecomputesSecondary (.rdPoll c') s ∧ SetByTheWire s (pollRead c' s).2 c j := by
  have hretire : ∀ l, bit ((s.setChip .primary (retireLine l s.primary)).chip c).irr j = false := fun l => by
    cases c with
    | primary => exact bit_retireLine_irr h
    | secondary => exact h
  rcases pollRead_cases c' s with ⟨-, hv⟩ | ⟨r, hr, ⟨rfl, -, hv⟩ | ⟨rfl, -, hv⟩ | ⟨rfl, hv⟩⟩ <;> rw [hv] at h' ⊢
  · rw [h] at h'; cases h'
  · rw [hretire] at h'; cases h'
  · rcases updateAndRecompute_sets_irr h h' with ⟨-, hirr⟩ | ⟨hc, -⟩
    · rw [bit_retireLine_irr h] at hirr; cases hirr
    · cases hc
  · refine ⟨⟨rfl, r, presented_of_pendingIrq hr⟩, ?_⟩
    rcases updateAndRecompute_sets_irr (hretire 2) h' with ⟨rfl, hirr⟩ | ⟨-, hwire⟩
    · rw [bit_retireLine_irr (hretire 2)] at hirr; cases hirr
    · exact hwire

/-- A reset leaves no request. -/
theorem resetWith_irr {f : ChipState → ChipState} (hf : ∀ k, (f k).irr = 0 ∧ (f k).lastIrr = 0 ∧ (f k).out = k.out)
    (s : State) (c : Chip) : ((resetWith f s).chip c).irr = 0 := by
  rw [resetWith_eq f s hf]
  cases c with
  | primary => exact (hf s.primary).1
  | secondary => exact (hf s.secondary).1

theorem deviceReset_irr (s : State) (c : Chip) : ((resetWith ChipState.zeroed s).chip c).irr = 0 :=
  resetWith_irr (f := ChipState.zeroed) (fun _ => ⟨rfl, rfl, rfl⟩) s c

theorem coldReset_irr (s : State) (c : Chip) : ((resetWith ChipState.coldZeroed s).chip c).irr = 0 :=
  resetWith_irr (f := ChipState.coldZeroed) (fun _ => ⟨rfl, rfl, rfl⟩) s c

/-- Settles O58: a write of registers sets a request by an assertion, and every other way is the wire at a recomputation
of S. -/
theorem requestsAreSetOnlyByTheirLine : Obligations.RequestsAreSetOnlyByTheirLine := by
  intro i s t c j h hrestore hs ht
  obtain ⟨F, hF, rfl⟩ := acts_of_exec h
  have hkept : ((F s).chip c).irr ≠ (s.chip c).irr := fun hk => by rw [hk, hs] at ht; cases ht
  have hnonzero : ((F s).chip c).irr ≠ 0 := fun hz => by
    rw [hz] at ht
    exact absurd (bit_zero j ▸ ht) Bool.false_ne_true
  cases hF with
  | write hw =>
    rcases updateAndRecompute_sets_irr hs ht with ⟨rfl, hset⟩ | ⟨rfl, hwire⟩
    · obtain ⟨hassert, hline⟩ := hw.sets_irr hs hset
      exact ⟨.inl hassert, hline⟩
    · exact hwire.maySetRequest (hw.recomputesSecondary s)
  | wrElcr c' => exact (hkept (setChip_field ChipState.irr (by rfl) c)).elim
  | read => exact absurd (by rw [emit_chip]) hkept
  | rdPoll c' =>
    rw [emit_chip, polled_field ChipState.irr fun _ => rfl] at ht
    obtain ⟨hi, hc, hj, hout, hline⟩ := pollRead_sets_irr hs ht
    have hpolled : (polled c' s).secondary.out = true :=
      (polled_field ChipState.out (fun _ => rfl) c' s .secondary).trans hout
    exact SetByTheWire.maySetRequest ⟨hc, hj, hpolled, hline⟩ hi
  | inta =>
    rw [emit_chip] at ht
    obtain ⟨hi, hwire⟩ := resolveVector_sets_irr hs ht
    exact hwire.maySetRequest hi
  | deviceReset => exact absurd (deviceReset_irr s c) hnonzero
  | coldReset => exact absurd (coldReset_irr s c) hnonzero
  | snapSave => exact absurd (by cases c <;> rfl) hkept
  | snapRestore => exact absurd rfl hrestore
  | fatal => exact absurd (by rw [raiseFatal_chip]) hkept
  | refused => exact absurd (by rw [refuse_chip]) hkept

end Sys2Proof.Machine
end

section
/-! SUPPORT. The memory rules (20_memory.md): the width of a port access. -/

namespace Sys2Proof.Machine

/-! ## The width check (20_memory.md R63) -/

/-- A port word of another width than one byte names no operation, whatever its word. -/
theorem readOffer_of_width_ne_one (s : State) (o : Offer) (hport : o.word.getLsbD 15 = false) (hw : o.width ≠ 1) :
    readOffer s o = .error .accessWidth := by
  have hcheck : (isPortWord o.word && o.width != 1) = true := by
    rw [isPortWord, hport]
    simpa using hw
  simp only [readOffer, hcheck, if_true]

theorem step_of_readOffer_error (s : State) (o : Offer) (rest : List Offer) (r : RefuseReason) (hf : s.fault = none)
    (hi : s.inbox = o :: rest) (hr : readOffer s o = .error r) : step s = .next (refuse r (takeOffer o rest s)) := by
  simp only [step, hf, hi, hr]

/-- A refusal marks the pair and keeps the reason (60_exceptions.md R221). -/
theorem refusedFor_refuse (r : RefuseReason) (s : State) : RefusedFor r s (refuse r s) := rfl

/-- Settles O44: the width check fails before the word is decoded, so the step takes the offer and refuses it. -/
theorem stepRefusesOtherWidths : Obligations.StepRefusesOtherWidths := by
  intro s o rest hf hi hport hw
  have hr : readOffer s o = .error .accessWidth := readOffer_of_width_ne_one s o hport hw
  exact ⟨_, refusedFor_refuse _ _, step_of_readOffer_error s o rest _ hf hi hr⟩

end Sys2Proof.Machine
end

section
/-! SUPPORT. The encoding rules (30_encoding.md): the fields of a transaction word and how the decoder reads them; that
encoder and decoder are inverse; which rows of the table take a word; and the refusal of a word of no row. -/

namespace Sys2Proof.Machine

/-! ## Bits of a word -/

/-- A field of a word that is not zero has a bit set. -/
theorem exists_getLsbD_of_extractLsb'_ne_zero {w start len : Nat} {x : BitVec w} (h : x.extractLsb' start len ≠ 0) :
    ∃ j, j < len ∧ x.getLsbD (start + j) = true := by
  by_contra hnone
  refine h (BitVec.eq_of_getLsbD_eq fun j hj => ?_)
  have hbit : x.getLsbD (start + j) = false := by simpa using fun hset => hnone ⟨j, hj, hset⟩
  rw [BitVec.getLsbD_extractLsb', hbit, Bool.and_false, BitVec.ofNat_eq_ofNat, BitVec.getLsbD_zero]

/-- A field of a word that is zero has no bit set. -/
theorem getLsbD_of_extractLsb'_eq_zero {w start len n : Nat} {x : BitVec w} (h : x.extractLsb' start len = 0)
    (hstart : start ≤ n) (hn : n < start + len) : x.getLsbD n = false := by
  have hbit := congrArg (BitVec.getLsbD · (n - start)) h
  simpa [BitVec.getLsbD_extractLsb', show n - start < len by omega, Nat.add_sub_cancel' hstart] using hbit

/-- The widened flag of the encoder, at bit `k` of a word. -/
theorem getLsbD_ofBool_shiftLeft (b : Bool) {k : Nat} (hk : k < 16) (n : Nat) :
    ((BitVec.ofBool b).setWidth 16 <<< k).getLsbD n = (decide (n = k) && b) := by
  simp only [BitVec.getLsbD_shiftLeft, BitVec.getLsbD_setWidth, BitVec.getLsbD_ofBool]
  by_cases hn : n = k
  · simp [hn, hk]
  · have hpos : n < k ∨ n - k ≠ 0 := by omega
    rcases hpos with h | h <;> simp [hn, h]

/-- Widening to a word keeps the bits. -/
theorem getLsbD_setWidth_word {w : Nat} (x : BitVec w) (hw : w ≤ 16) (n : Nat) :
    (x.setWidth 16).getLsbD n = x.getLsbD n := by
  rw [BitVec.getLsbD_setWidth]
  by_cases hn : n < 16
  · rw [decide_eq_true hn, Bool.true_and]
  · rw [BitVec.getLsbD_of_ge x n (by omega), Bool.and_false]

/-! ## Port words by their fields (30_encoding.md R81, R82) -/

/-- A word with bit 15 clear: `rd` at bit 14, the chip at bit 13, the port at bits 12 and 11, `low` below. -/
def portWord (rd hi lo : Bool) (c : Chip) (low : BitVec 11) : TWord :=
  ((BitVec.ofBool rd).setWidth 16 <<< 14) ||| ((BitVec.ofBool hi).setWidth 16 <<< 12) |||
    ((BitVec.ofBool lo).setWidth 16 <<< 11) ||| chipField c ||| low.setWidth 16

theorem chipField_eq_shiftLeft (c : Chip) :
    chipField c = (BitVec.ofBool (c == .secondary)).setWidth 16 <<< 13 := by
  cases c <;> rfl

theorem getLsbD_portWord (rd hi lo : Bool) (c : Chip) (low : BitVec 11) (n : Nat) :
    (portWord rd hi lo c low).getLsbD n =
      (decide (n = 14) && rd || decide (n = 12) && hi || decide (n = 11) && lo ||
        decide (n = 13) && c == .secondary || low.getLsbD n) := by
  simp only [portWord, chipField_eq_shiftLeft, BitVec.getLsbD_or, getLsbD_setWidth_word low (by decide),
    getLsbD_ofBool_shiftLeft _ (by decide : 11 < 16), getLsbD_ofBool_shiftLeft _ (by decide : 12 < 16),
    getLsbD_ofBool_shiftLeft _ (by decide : 13 < 16), getLsbD_ofBool_shiftLeft _ (by decide : 14 < 16)]

section PortFields
variable (rd hi lo : Bool) (c : Chip) (low : BitVec 11)

@[simp] theorem portWord_bit15 : (portWord rd hi lo c low)[15] = false := by
  rw [← BitVec.getLsbD_eq_getElem, getLsbD_portWord]; simp

@[simp] theorem portWord_bit14 : (portWord rd hi lo c low)[14] = rd := by
  rw [← BitVec.getLsbD_eq_getElem, getLsbD_portWord]; simp

@[simp] theorem portWord_chip : chipOfBit (portWord rd hi lo c low)[13] = c := by
  rw [← BitVec.getLsbD_eq_getElem, getLsbD_portWord]; cases c <;> simp [chipOfBit]

@[simp] theorem portWord_bit12 : (portWord rd hi lo c low)[12] = hi := by
  rw [← BitVec.getLsbD_eq_getElem, getLsbD_portWord]; simp

@[simp] theorem portWord_bit11 : (portWord rd hi lo c low)[11] = lo := by
  rw [← BitVec.getLsbD_eq_getElem, getLsbD_portWord]; simp

theorem getLsbD_portWord_low {n : Nat} (hn : n < 11) : (portWord rd hi lo c low).getLsbD n = low.getLsbD n := by
  rw [getLsbD_portWord]
  simp [show n ≠ 11 by omega, show n ≠ 12 by omega, show n ≠ 13 by omega, show n ≠ 14 by omega]

theorem extractLsb'_portWord {start len : Nat} (h : start + len ≤ 11) :
    (portWord rd hi lo c low).extractLsb' start len = low.extractLsb' start len := by
  refine BitVec.eq_of_getLsbD_eq fun n hn => ?_
  rw [BitVec.getLsbD_extractLsb', BitVec.getLsbD_extractLsb', getLsbD_portWord_low _ _ _ _ _ (by omega)]

@[simp] theorem portWord_low : (portWord rd hi lo c low).extractLsb' 0 11 = low := by
  rw [extractLsb'_portWord _ _ _ _ _ (by decide), BitVec.extractLsb'_eq_self]

@[simp] theorem portWord_reserved : (portWord rd hi lo c low).extractLsb' 8 3 = low.extractLsb' 8 3 :=
  extractLsb'_portWord _ _ _ _ _ (by decide)

@[simp] theorem portWord_byte : (portWord rd hi lo c low).extractLsb' 0 8 = low.extractLsb' 0 8 :=
  extractLsb'_portWord _ _ _ _ _ (by decide)

end PortFields

/-- Every word with bit 15 clear is a port word. -/
theorem exists_portWord {t : TWord} (h15 : t.getLsbD 15 = false) : ∃ rd hi lo c low, t = portWord rd hi lo c low := by
  refine ⟨t.getLsbD 14, t.getLsbD 12, t.getLsbD 11, chipOfBit (t.getLsbD 13), t.extractLsb' 0 11, ?_⟩
  have hchip : (chipOfBit (t.getLsbD 13) == .secondary) = t.getLsbD 13 := by
    cases t.getLsbD 13 <;> rfl
  refine BitVec.eq_of_getLsbD_eq fun n hn => ?_
  by_cases hlow : n < 11
  · rw [getLsbD_portWord_low _ _ _ _ _ hlow, BitVec.getLsbD_extractLsb', decide_eq_true hlow, Bool.true_and,
      Nat.zero_add]
  · rw [getLsbD_portWord, hchip, BitVec.getLsbD_of_ge (t.extractLsb' 0 11) n (by omega)]
    obtain rfl | rfl | rfl | rfl | rfl : n = 11 ∨ n = 12 ∨ n = 13 ∨ n = 14 ∨ n = 15 := by omega
    all_goals simp [-BitVec.getLsbD_eq_getElem, h15]

/-! The low bits of a port word that holds a byte and no reserved bit. -/

@[simp] theorem byteLow_reserved (v : Byte) : (v.setWidth 11).extractLsb' 8 3 = 0 := by
  refine BitVec.eq_of_getLsbD_eq fun n hn => ?_
  simp

@[simp] theorem byteLow_byte (v : Byte) : (v.setWidth 11).extractLsb' 0 8 = v := by
  rw [BitVec.extractLsb'_setWidth_of_le (by decide), BitVec.extractLsb'_eq_self]

theorem eq_byteLow {low : BitVec 11} (h : low.extractLsb' 8 3 = 0) : low = (low.extractLsb' 0 8).setWidth 11 := by
  refine BitVec.eq_of_getLsbD_eq fun n hn => ?_
  rw [BitVec.getLsbD_setWidth, BitVec.getLsbD_extractLsb', decide_eq_true hn, Bool.true_and, Nat.zero_add]
  by_cases hbyte : n < 8
  · rw [decide_eq_true hbyte, Bool.true_and]
  · rw [getLsbD_of_extractLsb'_eq_zero h (by omega) hn, decide_eq_false hbyte, Bool.false_and]

/-! The assembler's port words (30_encoding.md R103). -/

theorem byte_setWidth_word (v : Byte) : v.setWidth 16 = (v.setWidth 11).setWidth 16 :=
  (BitVec.setWidth_setWidth (by decide)).symm

theorem outCmd_eq_portWord (c : Chip) (v : Byte) : outCmd c v = portWord false false false c (v.setWidth 11) := by
  rw [outCmd, portWord, byte_setWidth_word]; rfl

theorem outData_eq_portWord (c : Chip) (v : Byte) : outData c v = portWord false false true c (v.setWidth 11) := by
  rw [outData, portWord, byte_setWidth_word]; rfl

theorem outElcr_eq_portWord (c : Chip) (v : Byte) : outElcr c v = portWord false true false c (v.setWidth 11) := by
  rw [outElcr, portWord, byte_setWidth_word]; rfl

/-- The word of a read of port `hi`, `lo`: its byte is zero. -/
def readWord (hi lo : Bool) (c : Chip) : TWord := portWord true hi lo c ((0 : Byte).setWidth 11)

theorem readCmd_eq_readWord (c : Chip) : 0x4000 ||| chipField c = readWord false false c := by cases c <;> rfl

theorem encode_rdData (c : Chip) : encode (.rdData c) = readWord false true c := by cases c <;> rfl

theorem encode_rdElcr (c : Chip) : encode (.rdElcr c) = readWord true false c := by cases c <;> rfl

theorem encode_reservedPort (rd : Bool) (c : Chip) (low : BitVec 11) :
    encode (.reservedPort rd c low) = portWord rd true true c low := by
  cases rd <;> cases c <;> rfl

/-! ## The decoder on port words -/

theorem decode_reservedPortWord (ctx : DecodeContext) (rd : Bool) (c : Chip) (low : BitVec 11) :
    decode ctx (portWord rd true true c low) = .ok (.reservedPort rd c low) := by
  simp [decode, decodePort]

theorem decode_portWord_reservedBits (ctx : DecodeContext) {rd hi lo : Bool} {c : Chip} {low : BitVec 11}
    (hport : (hi && lo) = false) (hres : low.extractLsb' 8 3 ≠ 0#3) :
    decode ctx (portWord rd hi lo c low) = .error .reservedPortBits := by
  match hi, lo, hport with
  | false, _, _ | true, false, _ => simp [decode, decodePort, hres]

theorem decode_readWord_byte (ctx : DecodeContext) {hi lo : Bool} {c : Chip} {v : Byte}
    (hport : (hi && lo) = false) (hv : v ≠ 0#8) :
    decode ctx (portWord true hi lo c (v.setWidth 11)) = .error .readByteNotZero := by
  match hi, lo, hport with
  | false, _, _ | true, false, _ => simp [decode, decodePort, hv]

theorem decode_outCmd (ctx : DecodeContext) (c : Chip) (v : Byte) :
    decode ctx (outCmd c v) = .ok (decodeCommandByte c v) := by
  simp [outCmd_eq_portWord, decode, decodePort]

theorem decode_outData (ctx : DecodeContext) (c : Chip) (v : Byte) :
    decode ctx (outData c v) = .ok (decodeDataByte (ctx.chip c).initState c v) := by
  simp [outData_eq_portWord, decode, decodePort]

theorem decode_outElcr (ctx : DecodeContext) (c : Chip) (v : Byte) : decode ctx (outElcr c v) = .ok (.wrElcr c v) := by
  simp [outElcr_eq_portWord, decode, decodePort]

theorem decode_readCmd (ctx : DecodeContext) (c : Chip) :
    decode ctx (readWord false false c) = .ok (if (ctx.chip c).poll then .rdPoll c else .rdCmd c) := by
  simp [readWord, decode, decodePort]

theorem decode_readData (ctx : DecodeContext) (c : Chip) : decode ctx (readWord false true c) = .ok (.rdData c) := by
  simp [readWord, decode, decodePort]

theorem decode_readElcr (ctx : DecodeContext) (c : Chip) : decode ctx (readWord true false c) = .ok (.rdElcr c) := by
  simp [readWord, decode, decodePort]

/-! ## Pin and platform words (30_encoding.md R94 to R97) -/

/-- The words of SET_LEVEL_LINE2 are those SET_LEVEL would have at line 2 (R102). -/
theorem encode_setLevelLine2 (level : Bool) : encode (.setLevelLine2 level) = encode (.setLevel 2 level) := by
  cases level <;> rfl

theorem getLsbD_encode_setLevel (g : GlobalLine) (level : Bool) (n : Nat) :
    (encode (.setLevel g level)).getLsbD n =
      (decide (n = 15) || (decide (8 ≤ n) && g.getLsbD (n - 8)) || decide (n = 0) && level) := by
  have hfields : encode (.setLevel g level) = ((BitVec.ofBool true).setWidth 16 <<< 15) ||| (g.setWidth 16 <<< 8) |||
      ((BitVec.ofBool level).setWidth 16 <<< 0) := by
    cases level <;> rfl
  have hline : (g.setWidth 16 <<< 8).getLsbD n = (decide (8 ≤ n) && g.getLsbD (n - 8)) := by
    rw [BitVec.getLsbD_shiftLeft, getLsbD_setWidth_word g (by decide)]
    by_cases hn : n < 16
    · simp [hn, ← decide_not]
    · rw [BitVec.getLsbD_of_ge g _ (by omega), Bool.and_false, Bool.and_false]
  rw [hfields, BitVec.getLsbD_or, BitVec.getLsbD_or, hline, getLsbD_ofBool_shiftLeft _ (by decide),
    getLsbD_ofBool_shiftLeft _ (by decide), Bool.and_true]

theorem getLsbD_encode_reservedPin (low : BitVec 13) (n : Nat) :
    (encode (.reservedPin low)).getLsbD n = (decide (n = 15) || decide (n = 13) || low.getLsbD n) := by
  have hcls : (0xA000 : TWord) =
      (BitVec.ofBool true).setWidth 16 <<< 15 ||| (BitVec.ofBool true).setWidth 16 <<< 13 := rfl
  rw [encode, hcls, BitVec.getLsbD_or, BitVec.getLsbD_or, getLsbD_setWidth_word low (by decide),
    getLsbD_ofBool_shiftLeft _ (by decide), getLsbD_ofBool_shiftLeft _ (by decide), Bool.and_true, Bool.and_true]

/-- The decoder reads the line and the level back; line 2 has its own row. -/
theorem decode_setLevelWord (ctx : DecodeContext) (g : GlobalLine) (level : Bool) :
    decode ctx (encode (.setLevel g level)) = .ok (if g = 2 then .setLevelLine2 level else .setLevel g level) := by
  have hbit := getLsbD_encode_setLevel g level
  have hres : (encode (.setLevel g level)).extractLsb' 1 7 = (0 : BitVec 7) := by
    refine BitVec.eq_of_getLsbD_eq fun n hn => ?_
    rw [BitVec.getLsbD_extractLsb', hbit]
    simp [show 1 + n ≠ 15 by omega, show ¬ 8 ≤ 1 + n by omega]
  have hline : (encode (.setLevel g level)).extractLsb' 8 4 = g := by
    refine BitVec.eq_of_getLsbD_eq fun n hn => ?_
    rw [BitVec.getLsbD_extractLsb', hbit]
    simp [hn, show 8 + n ≠ 15 by omega]
  simp only [decode, decodePin, hres, hline, hbit]
  simp

theorem decode_reservedPinWord (ctx : DecodeContext) (low : BitVec 13) :
    decode ctx (encode (.reservedPin low)) = .ok (.reservedPin low) := by
  have hlow : (encode (.reservedPin low)).extractLsb' 0 13 = low := by
    refine BitVec.eq_of_getLsbD_eq fun n hn => ?_
    rw [BitVec.getLsbD_extractLsb', getLsbD_encode_reservedPin]
    simp [hn, show n ≠ 15 by omega, show n ≠ 13 by omega]
  simp only [decode, decodePin, hlow, getLsbD_encode_reservedPin]
  simp

/-! ## Decoding what was encoded -/

/-! The classes of a command byte by bits 4 and 3 (30_encoding.md R83). -/

theorem decodeCommandByte_icw1 (c : Chip) {val : Byte} (h4 : val.getLsbD 4 = true) (h3 : val.getLsbD 3 = false) :
    decodeCommandByte c val = .icw1 c val := by
  simp only [decodeCommandByte, h4, h3]; rfl

theorem decodeCommandByte_icw1Ltim (c : Chip) {val : Byte} (h4 : val.getLsbD 4 = true) (h3 : val.getLsbD 3 = true) :
    decodeCommandByte c val = .icw1Ltim c val := by
  simp only [decodeCommandByte, h4, h3]; rfl

theorem decodeCommandByte_ocw3 (c : Chip) {val : Byte} (h4 : val.getLsbD 4 = false) (h3 : val.getLsbD 3 = true) :
    decodeCommandByte c val = .ocw3 c val := by
  simp only [decodeCommandByte, h4, h3]; rfl

/-! An OCW2 byte by its fields (30_encoding.md R85). -/

theorem ocw2Byte_class (code : BitVec 3) (l : Line) :
    (ocw2Byte code l).getLsbD 4 = false ∧ (ocw2Byte code l).getLsbD 3 = false := by
  revert code l; decide

theorem ocw2Byte_code (code : BitVec 3) (l : Line) :
    (ocw2Byte code l).getLsbD 7 = code.getLsbD 2 ∧ (ocw2Byte code l).getLsbD 6 = code.getLsbD 1 ∧
      (ocw2Byte code l).getLsbD 5 = code.getLsbD 0 := by
  revert code l; decide

theorem ocw2Byte_line (code : BitVec 3) (l : Line) : (ocw2Byte code l).extractLsb' 0 3 = l := by
  revert code l; decide

/-- The operation of an OCW2 code (30_encoding.md R85). -/
def ocw2Instr (code : BitVec 3) (c : Chip) (l : Line) : Instr :=
  match code.getLsbD 2, code.getLsbD 1, code.getLsbD 0 with
  | false, false, false => .ocw2ClrRotaeoi c l
  | false, false, true => .ocw2Eoi c l
  | false, true, false => .ocw2Nop c l
  | false, true, true => .ocw2Seoi c l
  | true, false, false => .ocw2SetRotaeoi c l
  | true, false, true => .ocw2RotEoi c l
  | true, true, false => .ocw2Setpri c l
  | true, true, true => .ocw2RotSeoi c l

theorem decodeCommandByte_ocw2Byte (c : Chip) (code : BitVec 3) (l : Line) :
    decodeCommandByte c (ocw2Byte code l) = ocw2Instr code c l := by
  obtain ⟨h4, h3⟩ := ocw2Byte_class code l
  obtain ⟨h7, h6, h5⟩ := ocw2Byte_code code l
  simp only [decodeCommandByte, ocw2Instr, h3, h4, h5, h6, h7, ocw2Byte_line]
  rfl

/-- The OCW2 operations come back from their words. -/
theorem decode_ocw2Word (ctx : DecodeContext) (c : Chip) (code : BitVec 3) (l : Line) :
    decode ctx (outCmd c (ocw2Byte code l)) = .ok (ocw2Instr code c l) := by
  rw [decode_outCmd, decodeCommandByte_ocw2Byte]

/-- Settles O38: each operation's word is one whose fields the decoder's equations read. -/
theorem decodeOfEncode : Obligations.DecodeOfEncode := by
  intro ctx i hwf hfits
  cases i with
  | icw1 c val =>
    simp only [Instr.wf, Bool.and_eq_true, Bool.not_eq_true'] at hwf
    rw [encode, decode_outCmd, decodeCommandByte_icw1 c hwf.1 hwf.2]
  | icw1Ltim c val =>
    simp only [Instr.wf, Bool.and_eq_true] at hwf
    rw [encode, decode_outCmd, decodeCommandByte_icw1Ltim c hwf.1 hwf.2]
  | ocw3 c val =>
    simp only [Instr.wf, Bool.and_eq_true, Bool.not_eq_true'] at hwf
    rw [encode, decode_outCmd, decodeCommandByte_ocw3 c hwf.1 hwf.2]
  | ocw2ClrRotaeoi c l | ocw2Eoi c l | ocw2Nop c l | ocw2Seoi c l | ocw2SetRotaeoi c l | ocw2RotEoi c l
  | ocw2Setpri c l | ocw2RotSeoi c l => exact decode_ocw2Word ctx c _ l
  | ocw1 c val | icw2 c val | icw3 c val | icw4 c val =>
    rw [encode, decode_outData, eq_of_beq hfits]; rfl
  | wrElcr c val => exact decode_outElcr ctx c val
  | rdCmd c | rdPoll c =>
    rw [encode, readCmd_eq_readWord, decode_readCmd, eq_of_beq hfits]; rfl
  | rdData c => rw [encode_rdData, decode_readData]
  | rdElcr c => rw [encode_rdElcr, decode_readElcr]
  | setLevel g level =>
    have hg : g ≠ 2 := by simpa [Instr.wf] using hwf
    rw [decode_setLevelWord, if_neg hg]
  | setLevelLine2 level => rw [encode_setLevelLine2, decode_setLevelWord, if_pos rfl]
  | inta | deviceReset | coldReset | snapSave | snapRestore => rfl
  | reservedPort rd c low => rw [encode_reservedPort, decode_reservedPortWord]
  | reservedPin low => exact decode_reservedPinWord ctx low

/-! ## Words of no row (30_encoding.md R97) -/

/-- A reserved bit of the word is set: no row takes it. -/
inductive NoRow (t : TWord) : Prop where
  /-- One of bits 10:8 of a port word, `port` not 11. -/
  | portBits {j : Nat} (hj : j < 3) (h15 : t.getLsbD 15 = false)
      (hport : t.getLsbD 12 = false ∨ t.getLsbD 11 = false) (hset : t.getLsbD (8 + j) = true)
  /-- A bit of the byte of a port read, `port` not 11. -/
  | readByte {j : Nat} (hj : j < 8) (h15 : t.getLsbD 15 = false) (h14 : t.getLsbD 14 = true)
      (hport : t.getLsbD 12 = false ∨ t.getLsbD 11 = false) (hset : t.getLsbD j = true)
  /-- One of bits 7:1 of a SET_LEVEL. -/
  | setLevelBits {j : Nat} (hj : j < 7) (h15 : t.getLsbD 15 = true) (h14 : t.getLsbD 14 = false)
      (h13 : t.getLsbD 13 = false) (h12 : t.getLsbD 12 = false) (hset : t.getLsbD (1 + j) = true)
  /-- One of bits 11:0 of an INTA. -/
  | intaBits {j : Nat} (hj : j < 12) (h15 : t.getLsbD 15 = true) (h14 : t.getLsbD 14 = false)
      (h13 : t.getLsbD 13 = false) (h12 : t.getLsbD 12 = true) (hset : t.getLsbD j = true)
  /-- One of bits 11:0 of a platform operation. -/
  | platformBits {j : Nat} (hj : j < 12) (h15 : t.getLsbD 15 = true) (h14 : t.getLsbD 14 = true)
      (hset : t.getLsbD j = true)

/-! ## What the decoder's answer says of the word -/

/-- The answer fits the word: an operation that is well formed, fits the context and has this word, or an error for a
word of no row. -/
def Faithful (ctx : DecodeContext) (t : TWord) : Except DecodeError Instr → Prop
  | .ok i => i.wf = true ∧ i.fits ctx = true ∧ encode i = t
  | .error _ => NoRow t

/-- An OCW2 byte is its code and its line. -/
theorem eq_ocw2Byte {val : Byte} (h4 : val.getLsbD 4 = false) (h3 : val.getLsbD 3 = false) :
    val = ocw2Byte (val.extractLsb' 5 3) (val.extractLsb' 0 3) := by
  revert val; decide

theorem ocw2Instr_faithful (ctx : DecodeContext) (c : Chip) (code : BitVec 3) (l : Line) :
    Faithful ctx (outCmd c (ocw2Byte code l)) (.ok (ocw2Instr code c l)) := by
  have hcode : code = 0 ∨ code = 1 ∨ code = 2 ∨ code = 3 ∨ code = 4 ∨ code = 5 ∨ code = 6 ∨ code = 7 := by
    revert code; decide
  obtain rfl | rfl | rfl | rfl | rfl | rfl | rfl | rfl := hcode
  all_goals exact ⟨rfl, rfl, rfl⟩

theorem decodeCommandByte_faithful (ctx : DecodeContext) (c : Chip) (val : Byte) :
    Faithful ctx (outCmd c val) (.ok (decodeCommandByte c val)) := by
  cases h4 : val.getLsbD 4 with
  | true =>
    cases h3 : val.getLsbD 3 with
    | true =>
      rw [decodeCommandByte_icw1Ltim c h4 h3]
      exact ⟨by rw [Instr.wf, h4, h3]; rfl, rfl, rfl⟩
    | false =>
      rw [decodeCommandByte_icw1 c h4 h3]
      exact ⟨by rw [Instr.wf, h4, h3]; rfl, rfl, rfl⟩
  | false =>
    cases h3 : val.getLsbD 3 with
    | true =>
      rw [decodeCommandByte_ocw3 c h4 h3]
      exact ⟨by rw [Instr.wf, h4, h3]; rfl, rfl, rfl⟩
    | false =>
      rw [eq_ocw2Byte h4 h3, decodeCommandByte_ocw2Byte]
      exact ocw2Instr_faithful ctx c _ _

theorem decodeDataByte_faithful (ctx : DecodeContext) (c : Chip) (val : Byte) :
    Faithful ctx (outData c val) (.ok (decodeDataByte (ctx.chip c).initState c val)) := by
  cases hst : (ctx.chip c).initState with
  | normal | awaitIcw2 | awaitIcw3 | awaitIcw4 => exact ⟨rfl, beq_iff_eq.mpr hst, rfl⟩

theorem readCmd_faithful (ctx : DecodeContext) (c : Chip) :
    Faithful ctx (readWord false false c) (.ok (if (ctx.chip c).poll then .rdPoll c else .rdCmd c)) := by
  cases hpoll : (ctx.chip c).poll with
  | true | false => exact ⟨rfl, beq_iff_eq.mpr hpoll, readCmd_eq_readWord c⟩

/-- A write, a read with no byte, a read with a byte. -/
theorem decode_byteWord_faithful (ctx : DecodeContext) {rd hi lo : Bool} (c : Chip) (val : Byte)
    (hport : (hi && lo) = false) :
    Faithful ctx (portWord rd hi lo c (val.setWidth 11)) (decode ctx (portWord rd hi lo c (val.setWidth 11))) := by
  cases rd with
  | false =>
    match hi, lo, hport with
    | false, false, _ =>
      rw [← outCmd_eq_portWord, decode_outCmd]
      exact decodeCommandByte_faithful ctx c val
    | false, true, _ =>
      rw [← outData_eq_portWord, decode_outData]
      exact decodeDataByte_faithful ctx c val
    | true, false, _ =>
      rw [← outElcr_eq_portWord, decode_outElcr]
      exact ⟨rfl, rfl, rfl⟩
  | true =>
    by_cases hval : val = 0
    · subst hval
      match hi, lo, hport with
      | false, false, _ =>
        rw [← readWord, decode_readCmd]
        exact readCmd_faithful ctx c
      | false, true, _ =>
        rw [← readWord, decode_readData]
        exact ⟨rfl, rfl, encode_rdData c⟩
      | true, false, _ =>
        rw [← readWord, decode_readElcr]
        exact ⟨rfl, rfl, encode_rdElcr c⟩
    · rw [decode_readWord_byte ctx hport hval]
      rw [← byteLow_byte val] at hval
      obtain ⟨j, hj, hset⟩ := exists_getLsbD_of_extractLsb'_ne_zero hval
      exact .readByte hj (by simp) (by simp) (by simpa using Bool.and_eq_false_iff.mp hport)
        (by rw [getLsbD_portWord_low _ _ _ _ _ (by omega), ← hset, Nat.zero_add])

theorem decode_portWord_faithful (ctx : DecodeContext) (rd hi lo : Bool) (c : Chip) (low : BitVec 11) :
    Faithful ctx (portWord rd hi lo c low) (decode ctx (portWord rd hi lo c low)) := by
  cases hport : hi && lo with
  | true =>
    obtain ⟨rfl, rfl⟩ : hi = true ∧ lo = true := by simpa using hport
    rw [decode_reservedPortWord]
    exact ⟨rfl, rfl, encode_reservedPort rd c low⟩
  | false =>
    by_cases hres : low.extractLsb' 8 3 = 0
    · rw [eq_byteLow hres]
      exact decode_byteWord_faithful ctx c _ hport
    · rw [decode_portWord_reservedBits ctx hport hres]
      obtain ⟨j, hj, hset⟩ := exists_getLsbD_of_extractLsb'_ne_zero hres
      exact .portBits hj (by simp) (by simpa using Bool.and_eq_false_iff.mp hport)
        (by rw [getLsbD_portWord_low _ _ _ _ _ (by omega), hset])

/-- Words with bits 11:0 zero are told apart by bits 15:12. -/
theorem eq_of_low_eq_zero {t u : TWord} (ht : t.extractLsb' 0 12 = 0) (hu : u.extractLsb' 0 12 = 0)
    (h15 : t.getLsbD 15 = u.getLsbD 15) (h14 : t.getLsbD 14 = u.getLsbD 14) (h13 : t.getLsbD 13 = u.getLsbD 13)
    (h12 : t.getLsbD 12 = u.getLsbD 12) : u = t := by
  refine Eq.symm <| BitVec.eq_of_getLsbD_eq fun n hn => ?_
  by_cases hlow : n < 12
  · rw [getLsbD_of_extractLsb'_eq_zero ht (Nat.zero_le n) (by omega),
      getLsbD_of_extractLsb'_eq_zero hu (Nat.zero_le n) (by omega)]
  · obtain rfl | rfl | rfl | rfl : n = 12 ∨ n = 13 ∨ n = 14 ∨ n = 15 := by omega
    exacts [h12, h13, h14, h15]

theorem eq_encode_setLevel {t : TWord} (h15 : t.getLsbD 15 = true) (h14 : t.getLsbD 14 = false)
    (h13 : t.getLsbD 13 = false) (h12 : t.getLsbD 12 = false) (hres : t.extractLsb' 1 7 = 0) :
    t = encode (.setLevel (t.extractLsb' 8 4) (t.getLsbD 0)) := by
  refine BitVec.eq_of_getLsbD_eq fun n hn => ?_
  rw [getLsbD_encode_setLevel, BitVec.getLsbD_extractLsb']
  by_cases hlow : n < 8
  · by_cases hzero : n = 0
    · subst hzero; simp
    · rw [getLsbD_of_extractLsb'_eq_zero hres (by omega) (by omega)]
      simp [hzero, show n ≠ 15 by omega, show ¬ 8 ≤ n by omega]
  · by_cases hline : n < 12
    · simp [-BitVec.getLsbD_eq_getElem, show n ≠ 15 by omega, show n ≠ 0 by omega, show n - 8 < 4 by omega,
        show 8 ≤ n by omega]
    · obtain rfl | rfl | rfl | rfl : n = 12 ∨ n = 13 ∨ n = 14 ∨ n = 15 := by omega
      all_goals simp [-BitVec.getLsbD_eq_getElem, h12, h13, h14, h15]

theorem eq_encode_reservedPin {t : TWord} (h15 : t.getLsbD 15 = true) (h14 : t.getLsbD 14 = false)
    (h13 : t.getLsbD 13 = true) : t = encode (.reservedPin (t.extractLsb' 0 13)) := by
  refine BitVec.eq_of_getLsbD_eq fun n hn => ?_
  rw [getLsbD_encode_reservedPin, BitVec.getLsbD_extractLsb', Nat.zero_add]
  by_cases hlow : n < 13
  · simp [-BitVec.getLsbD_eq_getElem, hlow, show n ≠ 15 by omega, show n ≠ 13 by omega]
  · obtain rfl | rfl | rfl : n = 13 ∨ n = 14 ∨ n = 15 := by omega
    all_goals simp [-BitVec.getLsbD_eq_getElem, h13, h14, h15]

theorem setLevelWord_faithful (ctx : DecodeContext) (g : GlobalLine) (level : Bool) :
    Faithful ctx (encode (.setLevel g level)) (.ok (if g = 2 then .setLevelLine2 level else .setLevel g level)) := by
  by_cases hg : g = 2
  · rw [if_pos hg, hg]
    exact ⟨rfl, rfl, encode_setLevelLine2 level⟩
  · rw [if_neg hg]
    exact ⟨bne_iff_ne.mpr hg, rfl, rfl⟩

theorem decodePin_faithful (ctx : DecodeContext) {t : TWord} (h15 : t.getLsbD 15 = true) (h14 : t.getLsbD 14 = false) :
    Faithful ctx t (decodePin t) := by
  unfold decodePin
  split_ifs with h13 h12 hlow hres
  · exact ⟨rfl, rfl, (eq_encode_reservedPin h15 h14 h13).symm⟩
  · obtain ⟨j, hj, hset⟩ := exists_getLsbD_of_extractLsb'_ne_zero hlow
    exact .intaBits hj h15 h14 (Bool.eq_false_iff.mpr h13) h12 (Nat.zero_add j ▸ hset)
  · exact ⟨rfl, rfl, eq_of_low_eq_zero (not_not.mp hlow) rfl h15 h14 (Bool.eq_false_iff.mpr h13) h12⟩
  · obtain ⟨j, hj, hset⟩ := exists_getLsbD_of_extractLsb'_ne_zero hres
    exact .setLevelBits hj h15 h14 (Bool.eq_false_iff.mpr h13) (Bool.eq_false_iff.mpr h12) hset
  · have ht : t = encode (.setLevel (t.extractLsb' 8 4) (t.getLsbD 0)) :=
      eq_encode_setLevel h15 h14 (Bool.eq_false_iff.mpr h13) (Bool.eq_false_iff.mpr h12) (not_not.mp hres)
    have hfaithful := setLevelWord_faithful ctx (t.extractLsb' 8 4) (t.getLsbD 0)
    rwa [← ht] at hfaithful

theorem decodePlatform_faithful (ctx : DecodeContext) {t : TWord} (h15 : t.getLsbD 15 = true)
    (h14 : t.getLsbD 14 = true) : Faithful ctx t (decodePlatform t) := by
  unfold decodePlatform
  split_ifs with hlow
  · obtain ⟨j, hj, hset⟩ := exists_getLsbD_of_extractLsb'_ne_zero hlow
    exact .platformBits hj h15 h14 (Nat.zero_add j ▸ hset)
  · cases h13 : t.getLsbD 13 with
    | false | true =>
      cases h12 : t.getLsbD 12 with
      | false | true => exact ⟨rfl, rfl, eq_of_low_eq_zero (not_not.mp hlow) rfl h15 h14 h13 h12⟩

/-- Whatever the decoder answers fits the word. -/
theorem decode_faithful (ctx : DecodeContext) (t : TWord) : Faithful ctx t (decode ctx t) := by
  cases h15 : t.getLsbD 15 with
  | false =>
    obtain ⟨rd, hi, lo, c, low, rfl⟩ := exists_portWord h15
    exact decode_portWord_faithful ctx rd hi lo c low
  | true =>
    cases h14 : t.getLsbD 14 with
    | false =>
      rw [decode, if_pos h15, if_neg (Bool.eq_false_iff.mp h14)]
      exact decodePin_faithful ctx h15 h14
    | true =>
      rw [decode, if_pos h15, if_pos h14]
      exact decodePlatform_faithful ctx h15 h14

theorem noRow_of_decode_error {ctx : DecodeContext} {t : TWord} {e : DecodeError} (h : decode ctx t = .error e) :
    NoRow t := by
  have hfaithful := decode_faithful ctx t
  rwa [h] at hfaithful

/-- Settles O39: the operation's half of what the decoder's answer says of the word. -/
theorem encodeOfDecode : Obligations.EncodeOfDecode := by
  intro ctx t i h
  have hfaithful := decode_faithful ctx t
  rwa [h] at hfaithful

/-! ## The rows that take a word (30_encoding.md R102) -/

/-- A row's context, met by the chip that the word addresses. -/
def ContextHolds (ctx : DecodeContext) (t : TWord) : RowContext → Prop
  | .always => True
  | .initState st => (ctx.chip (chipOfBit (t.getLsbD 13))).initState = st
  | .poll b => (ctx.chip (chipOfBit (t.getLsbD 13))).poll = b

theorem takes_iff {ctx : DecodeContext} {t : TWord} {r : OpcodeRow} :
    r.takes ctx t = true ↔ t &&& r.mask = r.pattern ∧ ContextHolds ctx t r.context := by
  rw [OpcodeRow.takes, Bool.and_eq_true, beq_iff_eq]
  cases hr : r.context with
  | always => simp [ContextHolds]
  | initState st | poll b => simp only [ContextHolds, beq_iff_eq]

/-- The context of the row an operation stands for. -/
def rowContext : Instr → RowContext
  | .ocw1 _ _ => .initState .normal
  | .icw2 _ _ => .initState .awaitIcw2
  | .icw3 _ _ => .initState .awaitIcw3
  | .icw4 _ _ => .initState .awaitIcw4
  | .rdCmd _ => .poll false
  | .rdPoll _ => .poll true
  | _ => .always

theorem context_of_mnemonic {i : Instr} :
    ∀ r ∈ opcodeTable, r.mnemonic = i.mnemonic → r.context = rowContext i := by
  cases i <;> (simp only [Instr.mnemonic, rowContext]; decide)

theorem outData_chip (c : Chip) (v : Byte) : chipOfBit ((outData c v).getLsbD 13) = c := by
  rw [outData_eq_portWord]; simp

theorem readWord_chip (hi lo : Bool) (c : Chip) : chipOfBit ((readWord hi lo c).getLsbD 13) = c := by
  rw [readWord]; simp

/-- An operation that fits the context meets the context of its row. -/
theorem contextHolds_of_fits {ctx : DecodeContext} {i : Instr} (h : i.fits ctx = true) :
    ContextHolds ctx (encode i) (rowContext i) := by
  cases i with
  | ocw1 c val | icw2 c val | icw3 c val | icw4 c val =>
    rw [encode, rowContext, ContextHolds, outData_chip]; exact eq_of_beq h
  | rdCmd c | rdPoll c =>
    rw [encode, rowContext, ContextHolds, readCmd_eq_readWord, readWord_chip]; exact eq_of_beq h
  | _ => trivial

/-- The laws of Laws/PerInstr.lean as one. -/
theorem rowMatch (i : Instr) : Laws.RowMatch.Statement i := by
  cases i with
  | icw1 c val => exact Laws.RowMatch.icw1 c val
  | icw1Ltim c val => exact Laws.RowMatch.icw1Ltim c val
  | ocw3 c val => exact Laws.RowMatch.ocw3 c val
  | ocw2ClrRotaeoi c l => exact Laws.RowMatch.ocw2ClrRotaeoi c l
  | ocw2Eoi c l => exact Laws.RowMatch.ocw2Eoi c l
  | ocw2Nop c l => exact Laws.RowMatch.ocw2Nop c l
  | ocw2Seoi c l => exact Laws.RowMatch.ocw2Seoi c l
  | ocw2SetRotaeoi c l => exact Laws.RowMatch.ocw2SetRotaeoi c l
  | ocw2RotEoi c l => exact Laws.RowMatch.ocw2RotEoi c l
  | ocw2Setpri c l => exact Laws.RowMatch.ocw2Setpri c l
  | ocw2RotSeoi c l => exact Laws.RowMatch.ocw2RotSeoi c l
  | ocw1 c val => exact Laws.RowMatch.ocw1 c val
  | icw2 c val => exact Laws.RowMatch.icw2 c val
  | icw3 c val => exact Laws.RowMatch.icw3 c val
  | icw4 c val => exact Laws.RowMatch.icw4 c val
  | wrElcr c val => exact Laws.RowMatch.wrElcr c val
  | rdCmd c => exact Laws.RowMatch.rdCmd c
  | rdPoll c => exact Laws.RowMatch.rdPoll c
  | rdData c => exact Laws.RowMatch.rdData c
  | rdElcr c => exact Laws.RowMatch.rdElcr c
  | setLevel g level => exact Laws.RowMatch.setLevel g level
  | setLevelLine2 level => exact Laws.RowMatch.setLevelLine2 level
  | inta => exact Laws.RowMatch.inta
  | deviceReset => exact Laws.RowMatch.deviceReset
  | coldReset => exact Laws.RowMatch.coldReset
  | snapSave => exact Laws.RowMatch.snapSave
  | snapRestore => exact Laws.RowMatch.snapRestore
  | reservedPort rd c low => exact Laws.RowMatch.reservedPort rd c low
  | reservedPin low => exact Laws.RowMatch.reservedPin low

/-- The row of a well-formed operation takes its word in every context the operation fits. -/
theorem exists_row_takes_encode {ctx : DecodeContext} {i : Instr} (hwf : i.wf = true) (hfits : i.fits ctx = true) :
    ∃ r ∈ opcodeTable, r.mnemonic = i.mnemonic ∧ r.takes ctx (encode i) = true := by
  obtain ⟨r, hr, hname, hpattern⟩ := rowMatch i hwf
  refine ⟨r, hr, hname, takes_iff.mpr ⟨hpattern, ?_⟩⟩
  rw [context_of_mnemonic r hr hname]
  exact contextHolds_of_fits hfits

/-! ### Two rows that take one word -/

/-- Two contexts that one state of a chip can meet. -/
def contextsAgree : RowContext → RowContext → Bool
  | .initState st, .initState st' => st == st'
  | .poll b, .poll b' => b == b'
  | _, _ => true

theorem contextsAgree_of_holds {ctx : DecodeContext} {t : TWord} {x y : RowContext} (h : ContextHolds ctx t x)
    (h' : ContextHolds ctx t y) : contextsAgree x y = true := by
  cases x with
  | always => rfl
  | initState st =>
    cases y with
    | always | poll b => rfl
    | initState st' => exact beq_iff_eq.mpr (h.symm.trans h')
  | poll b =>
    cases y with
    | always | initState st => rfl
    | poll b' => exact beq_iff_eq.mpr (h.symm.trans h')

/-- The patterns agree where both rows have a mask bit, and so do the contexts. -/
def rowsAgree (r r' : OpcodeRow) : Bool :=
  r.pattern &&& r'.mask == r'.pattern &&& r.mask && contextsAgree r.context r'.context

theorem rowsAgree_of_takes {ctx : DecodeContext} {t : TWord} {r r' : OpcodeRow} (h : r.takes ctx t = true)
    (h' : r'.takes ctx t = true) : rowsAgree r r' = true := by
  obtain ⟨hmatch, hctx⟩ := takes_iff.mp h
  obtain ⟨hmatch', hctx'⟩ := takes_iff.mp h'
  have hpattern : r.pattern &&& r'.mask = r'.pattern &&& r.mask := by
    calc r.pattern &&& r'.mask
        = t &&& r.mask &&& r'.mask := by rw [hmatch]
      _ = t &&& r'.mask &&& r.mask := by rw [BitVec.and_assoc, BitVec.and_comm r.mask, BitVec.and_assoc]
      _ = r'.pattern &&& r.mask := by rw [hmatch']
  rw [rowsAgree, hpattern, contextsAgree_of_holds hctx hctx', beq_self_eq_true, Bool.and_true]

/-- The row whose words are SET_LEVEL's too. -/
def line2Row : OpcodeRow := ⟨"SET_LEVEL_LINE2", 0x8200, 0xFFFE, .always⟩

/-- But for line 2's row, no two rows of the table agree. -/
theorem eq_of_rowsAgree : ∀ r ∈ opcodeTable, ∀ r' ∈ opcodeTable, r ≠ line2Row → r' ≠ line2Row →
    rowsAgree r r' = true → r' = r := by
  decide

/-- A word of line 2's row is decoded as that row. -/
theorem decode_of_line2Row_takes {ctx : DecodeContext} {t : TWord} (h : line2Row.takes ctx t = true) :
    decode ctx t = .ok (.setLevelLine2 (t.getLsbD 0)) := by
  obtain ⟨hmatch, -⟩ := takes_iff.mp h
  have ht : t = encode (.setLevelLine2 (t.getLsbD 0)) := by
    calc t = t &&& (line2Row.mask ||| 1#16) := (BitVec.and_allOnes).symm
      _ = (t &&& line2Row.mask) ||| (t &&& 1#16) := BitVec.and_or_distrib_left
      _ = encode (.setLevelLine2 (t.getLsbD 0)) := by
        rw [hmatch, BitVec.and_one_eq_setWidth_ofBool_getLsbD]; rfl
  calc decode ctx t
      = decode ctx (encode (.setLevelLine2 (t.getLsbD 0))) := by rw [← ht]
    _ = .ok (.setLevelLine2 (t.getLsbD 0)) := decodeOfEncode ctx _ rfl rfl

/-! ### The rows of a word -/

theorem nodup_opcodeTable : opcodeTable.Nodup := by decide

theorem rowsTaking_eq_singleton {ctx : DecodeContext} {t : TWord} {r : OpcodeRow} (hr : r ∈ opcodeTable)
    (htakes : r.takes ctx t = true) (honly : ∀ r' ∈ opcodeTable, r'.takes ctx t = true → r' = r) :
    rowsTaking ctx t = [r.mnemonic] := by
  have hfilter : opcodeTable.filter (OpcodeRow.takes ctx t) = opcodeTable.filter fun r' => r' == r :=
    List.filter_congr fun r' hr' => Bool.eq_iff_iff.mpr
      ⟨fun h => beq_iff_eq.mpr (honly r' hr' h), fun h => beq_iff_eq.mp h ▸ htakes⟩
  rw [rowsTaking, hfilter, List.filter_beq, List.count_eq_one_of_mem nodup_opcodeTable hr]
  rfl

/-- The row's pattern has the other value at a bit of its mask. -/
def rowRejects (r : OpcodeRow) (f : Nat × Bool) : Bool :=
  r.mask.getLsbD f.1 && r.pattern.getLsbD f.1 != f.2

theorem takes_eq_false_of_rejects {ctx : DecodeContext} {t : TWord} {r : OpcodeRow} {f : Nat × Bool}
    (ht : t.getLsbD f.1 = f.2) (hrejects : rowRejects r f = true) : r.takes ctx t = false := by
  refine Bool.eq_false_iff.mpr fun htakes => ?_
  obtain ⟨hmatch, -⟩ := takes_iff.mp htakes
  rw [rowRejects, Bool.and_eq_true] at hrejects
  obtain ⟨hmask, hdiffers⟩ := hrejects
  refine bne_iff_ne.mp hdiffers ?_
  rw [← hmatch, BitVec.getLsbD_and, hmask, Bool.and_true, ht]

/-- A word with known bits, of which every row of the table rejects one; `j` is the place of a reserved bit in its
field. -/
theorem rowsTaking_eq_nil {ctx : DecodeContext} {t : TWord} {len j : Nat} (fs : Nat → List (Nat × Bool))
    (hno : ∀ j < len, ∀ r ∈ opcodeTable, ∃ f ∈ fs j, rowRejects r f = true) (hj : j < len)
    (ht : ∀ f ∈ fs j, t.getLsbD f.1 = f.2) : rowsTaking ctx t = [] := by
  rw [rowsTaking, List.map_eq_nil_iff, List.filter_eq_nil_iff]
  intro r hr htakes
  obtain ⟨f, hf, hrejects⟩ := hno j hj r hr
  rw [takes_eq_false_of_rejects (ht f hf) hrejects] at htakes
  exact Bool.false_ne_true htakes

theorem rowsTaking_of_noRow (ctx : DecodeContext) {t : TWord} (h : NoRow t) : rowsTaking ctx t = [] := by
  cases h with
  | portBits hj h15 hport hset =>
    obtain h12 | h11 := hport
    · exact rowsTaking_eq_nil (fun j => [(15, false), (12, false), (8 + j, true)]) (by decide) hj
        (by simp [-BitVec.getLsbD_eq_getElem, h15, h12, hset])
    · exact rowsTaking_eq_nil (fun j => [(15, false), (11, false), (8 + j, true)]) (by decide) hj
        (by simp [-BitVec.getLsbD_eq_getElem, h15, h11, hset])
  | readByte hj h15 h14 hport hset =>
    obtain h12 | h11 := hport
    · exact rowsTaking_eq_nil (fun j => [(15, false), (14, true), (12, false), (j, true)]) (by decide) hj
        (by simp [-BitVec.getLsbD_eq_getElem, h15, h14, h12, hset])
    · exact rowsTaking_eq_nil (fun j => [(15, false), (14, true), (11, false), (j, true)]) (by decide) hj
        (by simp [-BitVec.getLsbD_eq_getElem, h15, h14, h11, hset])
  | setLevelBits hj h15 h14 h13 h12 hset =>
    exact rowsTaking_eq_nil (fun j => [(15, true), (14, false), (13, false), (12, false), (1 + j, true)]) (by decide) hj
      (by simp [-BitVec.getLsbD_eq_getElem, h15, h14, h13, h12, hset])
  | intaBits hj h15 h14 h13 h12 hset =>
    exact rowsTaking_eq_nil (fun j => [(15, true), (14, false), (13, false), (12, true), (j, true)]) (by decide) hj
      (by simp [-BitVec.getLsbD_eq_getElem, h15, h14, h13, h12, hset])
  | platformBits hj h15 h14 hset =>
    exact rowsTaking_eq_nil (fun j => [(15, true), (14, true), (j, true)]) (by decide) hj
      (by simp [-BitVec.getLsbD_eq_getElem, h15, h14, hset])

/-- Settles O40: rows that take one word agree, so the row of the decoded operation is the only one but for line 2; a
word that is not decoded has a reserved bit set, which every row rejects. -/
theorem decoderAgreesWithTheTable : Obligations.DecoderAgreesWithTheTable := by
  intro ctx t
  refine ⟨fun i hd hline2 => ?_, fun b hd => ?_, fun e hd => rowsTaking_of_noRow ctx (noRow_of_decode_error hd)⟩
  · obtain ⟨hwf, hfits, rfl⟩ := encodeOfDecode ctx t i hd
    obtain ⟨r, hr, hname, htakes⟩ := exists_row_takes_encode hwf hfits
    have hne : ∀ r', r'.takes ctx (encode i) = true → r' ≠ line2Row := by
      rintro r' h rfl
      rw [decode_of_line2Row_takes h] at hd
      exact hline2 _ (Except.ok.inj hd).symm
    rw [← hname]
    exact rowsTaking_eq_singleton hr htakes fun r' hr' htakes' =>
      eq_of_rowsAgree r hr r' hr' (hne r htakes) (hne r' htakes') (rowsAgree_of_takes htakes htakes')
  · obtain ⟨-, -, rfl⟩ := encodeOfDecode ctx t _ hd
    cases b <;> rfl

/-! ## Sample words, and refusals -/

/-- Settles O37: both rows are refused with one reason. -/
theorem reservedRowsAreRefused : Obligations.ReservedRowsAreRefused :=
  fun _ _ _ _ s => ⟨refuse .reservedEncoding s, refusedFor_refuse _ s, rfl, rfl⟩

/-- Settles O41: the decoder evaluated at the eight words. -/
theorem sampleWordsDecode : Obligations.SampleWordsDecode := ⟨rfl, rfl, rfl, rfl, rfl, rfl, rfl, rfl⟩

/-- An offer that passes the width check and whose word matches no row names no operation. -/
theorem readOffer_of_decode_error (s : State) (o : Offer) (e : DecodeError)
    (hw : o.word.getLsbD 15 = false → o.width = 1) (hd : decode s.decodeContext o.word = .error e) :
    readOffer s o = .error .reservedEncoding := by
  have hwidth : (isPortWord o.word && o.width != 1) = false := by
    cases hport : o.word.getLsbD 15 with
    | true => simp [isPortWord, hport]
    | false => simp [hw hport]
  simp [readOffer, hwidth, hd]

/-- Settles O43: the width is right and the word is not decoded, so the step takes the offer and refuses it. -/
theorem stepRefusesWordsOfNoRow : Obligations.StepRefusesWordsOfNoRow := by
  intro s o rest e hf hi hw hd
  have hr : readOffer s o = .error .reservedEncoding := readOffer_of_decode_error s o e hw hd
  exact ⟨_, refusedFor_refuse _ _, step_of_readOffer_error s o rest _ hf hi hr⟩

end Sys2Proof.Machine
end

section
/-! SUPPORT. The arbitration rules (40_arbitration.md): the priority scan and the line a chip presents, line by line; a
recomputation done twice; and the notifications of P's output, which every operation leaves in step with it. -/

namespace Sys2Proof.Machine

/-! ## The priority scan (40_arbitration.md R110, R115) -/

/-- The line at a distance, as R110 writes it. -/
theorem lineAt_eq_ofNat (pa : Line) (d : Nat) : lineAt pa d = BitVec.ofNat 3 (d + pa.toNat) := by
  rw [lineAt, BitVec.ofNat_add, BitVec.ofNat_toNat, BitVec.setWidth_eq]

theorem priority_zero (pa : Line) : priority pa 0 = 8 := (priority_eq_eight_iff pa 0).mpr bit_zero

theorem priority_ne_eight_of_ne_zero (pa : Line) {m : Byte} (hm : m ≠ 0) : priority pa m ≠ 8 := fun h8 =>
  hm (byte_ext m 0 fun q => ((priority_eq_eight_iff pa m).mp h8 q).trans (bit_zero q).symm)

/-- No line nearer than `priority` says is set. -/
theorem bit_lineAt_of_lt_priority {pa : Line} {m : Byte} {d : Nat} (hd : d < priority pa m) :
    bit m (lineAt pa d) = false := by
  refine Bool.eq_false_iff.mpr fun hset => ?_
  have hd8 : d < 8 := lt_of_lt_of_le hd (priority_le_eight pa m)
  have hle : priority pa m ≤ rank pa (lineAt pa d) := priority_le_rank pa m _ hset
  rw [rank_lineAt pa d hd8] at hle
  omega

/-- Settles O1: a set line keeps the scan from its sentinel; it stops at a set line, and passes only unset ones. -/
theorem priorityIsDistanceToFirstSetLine : Obligations.PriorityIsDistanceToFirstSetLine := by
  intro pa m
  refine ⟨fun hm => hm ▸ priority_zero pa, fun hm => ?_⟩
  have hne := priority_ne_eight_of_ne_zero pa hm
  refine ⟨priority_lt_of_ne pa m hne, ?_, fun d hd => ?_⟩
  · rw [← lineAt_eq_ofNat]
    exact bit_lineAt_priority pa m hne
  · rw [← lineAt_eq_ofNat]
    exact bit_lineAt_of_lt_priority hd

/-- The set line of least rank is the one the scan stops at. -/
theorem priority_eq_rank {pa r : Line} {m : Byte} (hr : bit m r = true)
    (hfirst : ∀ q, bit m q = true → rank pa r ≤ rank pa q) : priority pa m = rank pa r := by
  have hle : priority pa m ≤ rank pa r := priority_le_rank pa m r hr
  have hlt : priority pa m < 8 := lt_of_le_of_lt hle (rank_lt pa r)
  have hge := hfirst _ (bit_lineAt_priority pa m hlt.ne)
  rw [rank_lineAt pa _ hlt] at hge
  exact le_antisymm hle hge

/-- A line nearer than every set one is nearer than the scan's result, the sentinel included. -/
theorem rank_lt_priority {pa r : Line} {m : Byte} (h : ∀ q, bit m q = true → rank pa r < rank pa q) :
    rank pa r < priority pa m := by
  by_cases h8 : priority pa m = 8
  · rw [h8]
    exact rank_lt pa r
  · have hlt := h _ (bit_lineAt_priority pa m h8)
    rwa [rank_lineAt pa _ (priority_lt_of_ne pa m h8)] at hlt

/-- Right after a rotation its line is the last and the next line the first. -/
theorem rank_rotateAfter (l : Line) : rank (rotateAfter l) l = 7 ∧ rank (rotateAfter l) (l + 1) = 0 := by
  revert l; decide

/-- Settles O18: code 6 writes the rotation base, which the recomputation leaves alone. -/
theorem setPriorityMakesLineLowest : Obligations.SetPriorityMakesLineLowest := by
  intro c l s
  refine ⟨updateAndRecompute c (rotate l) s, rfl, ?_⟩
  have hbase : ((updateAndRecompute c (rotate l) s).chip c).priorityAdd = rotateAfter l := by
    rw [updateAndRecompute_field ChipState.priorityAdd (fun _ _ => rfl) fun _ _ => latchLevel_priorityAdd _ _ _,
      if_pos rfl]
    rfl
  obtain ⟨hlast, hfirst⟩ := rank_rotateAfter l
  rw [hbase]
  exact ⟨hlast, hfirst, fun q => Nat.le_of_lt_succ (rank_lt _ q)⟩

/-! ## The line presented (40_arbitration.md R111) -/

/-- The arbiter finds the line that is presented. -/
theorem pendingIrq_of_presented {c : Chip} {k : ChipState} {r : Line} (h : Presented c k r) :
    pendingIrq c k = some r := by
  obtain ⟨hreq, hfirst, hblock⟩ := h
  have hpending : priority k.priorityAdd (pendingSet k) = rank k.priorityAdd r :=
    priority_eq_rank ((bit_pendingSet_iff k r).mpr hreq) fun q hq => hfirst q ((bit_pendingSet_iff k q).mp hq)
  have hservice : rank k.priorityAdd r < priority k.priorityAdd (inServiceSet c k) :=
    rank_lt_priority fun q hq => hblock q ((bit_inServiceSet_iff c k q).mp hq)
  rw [pendingIrq_eq_some, hpending, lineAt_rank]
  exact ⟨hservice, rfl⟩

/-- Settles O2: the two scans of `pending_irq` compare the ranks of the first requesting and the first blocking line. -/
theorem pendingIrqIsThePresentedLine : Obligations.PendingIrqIsThePresentedLine :=
  fun _ _ _ => ⟨presented_of_pendingIrq, pendingIrq_of_presented⟩

/-! ## A recomputation with nothing to do (40_arbitration.md R112) -/

/-- P's output is the level the arbiter gives. -/
def PrimarySettled (s : State) : Prop := s.primary.out = presents .primary s.primary

/-- Both outputs are the levels the arbiter gives, and P has seen S's on the cascade wire. -/
structure PairSettled (s : State) : Prop where
  secondary : s.secondary.out = presents .secondary s.secondary
  wire : wired s.secondary s.primary = s.primary
  primary : PrimarySettled s

theorem recomputePrimary_of_settled {s : State} (h : PrimarySettled s) : recomputePrimary s = s := by
  rw [recomputePrimary_eq, ← h, notices_self, List.append_nil]

theorem recomputeSecondary_of_settled {s : State} (h : PairSettled s) : recomputeSecondary s = s := by
  rw [recomputeSecondary_eq, h.wire, ← h.secondary, ← h.primary, notices_self, List.append_nil]

theorem recomputePrimary_settles (s : State) : PrimarySettled (recomputePrimary s) := by
  rw [PrimarySettled, recomputePrimary_primary]
  exact (presents_out _ _ _).symm

/-- The wire is driven from S's registers, not from its output, and leaves P's output alone. -/
theorem wired_with_out (kS kP : ChipState) (b b' : Bool) :
    wired { kS with out := b } { kP with out := b' } = { wired kS kP with out := b' } := by
  rw [wired, presents_out, latchLevel_with_out, wired]

/-- Driving the wire a second time to the same level changes nothing. -/
theorem wired_wired (kS kP : ChipState) : wired kS (wired kS kP) = wired kS kP := latchLevel_idem _ _ _

theorem recomputeSecondary_settles (s : State) : PairSettled (recomputeSecondary s) := by
  rw [recomputeSecondary_eq]
  exact ⟨(presents_out _ _ _).symm, by rw [wired_with_out, wired_wired], (presents_out _ _ _).symm⟩

theorem recomputeOutput_idem (c : Chip) (s : State) :
    recomputeOutput c (recomputeOutput c s) = recomputeOutput c s := by
  cases c with
  | primary => exact recomputePrimary_of_settled (recomputePrimary_settles s)
  | secondary => exact recomputeSecondary_of_settled (recomputeSecondary_settles s)

/-- Settles O19: a recomputation leaves nothing for a second one to do. -/
theorem recomputationIsIdempotent : Obligations.RecomputationIsIdempotent := by
  intro c l s t h
  have ht : recomputeOutput c s = t := by simpa only [exec, execOcw2Nop, Host.Outcome.next.injEq] using h
  subst ht
  exact congrArg Host.Outcome.next (recomputeOutput_idem c s)

/-! ## Notifications (40_arbitration.md R114) -/

/-- From `s` to `t` the pair has emitted events whose notifications are changes of P's output, and which lead from its
level in `s` to its level in `t`. -/
def Tracked (s t : State) : Prop :=
  ∃ es, t.events = s.events ++ es ∧ trackOutput s.primary.out es = some t.primary.out

/-- Tracking goes on from the level the first events left. -/
theorem trackOutput_append {b b' : Bool} {es : List Event} (es' : List Event) (h : trackOutput b es = some b') :
    trackOutput b (es ++ es') = trackOutput b' es' := by
  induction es generalizing b with
  | nil => cases h; rfl
  | cons e es ih =>
    cases e with
    | outputChanged level =>
      by_cases hlevel : level = b
      · simp only [trackOutput, hlevel, if_true, reduceCtorEq] at h
      · simp only [trackOutput, hlevel, if_false] at h
        simpa only [List.cons_append, trackOutput, hlevel, if_false] using ih h
    | portRead v => exact ih h
    | vector v => exact ih h

theorem trackOutput_notices (old new : Bool) : trackOutput old (notices old new) = some new := by
  by_cases h : new = old
  · rw [h, notices_self]; rfl
  · simp only [notices, h, if_false, trackOutput]

theorem Tracked.of_kept {s t : State} (hevents : t.events = s.events) (hout : t.primary.out = s.primary.out) :
    Tracked s t :=
  ⟨[], by rw [hevents, List.append_nil], by rw [hout]; rfl⟩

theorem Tracked.trans {s t u : State} (h : Tracked s t) (h' : Tracked t u) : Tracked s u := by
  obtain ⟨es, hevents, htrack⟩ := h
  obtain ⟨es', hevents', htrack'⟩ := h'
  exact ⟨es ++ es', by rw [hevents', hevents, List.append_assoc], by rw [trackOutput_append es' htrack, htrack']⟩

theorem tracked_emit_portRead (v : Byte) (s : State) : Tracked s (s.emit (.portRead v)) := ⟨_, rfl, rfl⟩

theorem tracked_emit_vector (v : Byte) (s : State) : Tracked s (s.emit (.vector v)) := ⟨_, rfl, rfl⟩

theorem tracked_setChip {c : Chip} {k : ChipState} {s : State} (h : k.out = (s.chip c).out) :
    Tracked s (s.setChip c k) := by
  cases c with
  | primary => exact .of_kept rfl h
  | secondary => exact .of_kept rfl rfl

/-- A recomputation notifies P's change, if there is one. -/
theorem tracked_recomputeOutput (c : Chip) (s : State) : Tracked s (recomputeOutput c s) :=
  ⟨_, (recomputeOutput_spec c s).events, trackOutput_notices _ _⟩

theorem tracked_updateAndRecompute {c : Chip} {f : ChipState → ChipState} {s : State}
    (h : (f (s.chip c)).out = (s.chip c).out) : Tracked s (updateAndRecompute c f s) :=
  (tracked_setChip h).trans (tracked_recomputeOutput c _)

/-- No register operation writes the output itself: ICW1 keeps it too (43_command_port.md R161). -/
theorem RegisterWrite.out_eq {i : Instr} {c : Chip} {f : ChipState → ChipState} (h : RegisterWrite i c f)
    (k : ChipState) : (f k).out = k.out := by
  cases h with
  | eoi => exact nonSpecificEoi_out k
  | rotEoi => exact nonSpecificEoiRotate_out k
  | setLevel => exact latchLevel_out _ _ k
  | _ => rfl

theorem tracked_intack (c : Chip) (line : Line) (s : State) : Tracked s (intack c line s) :=
  tracked_updateAndRecompute (ackLine_out line _)

theorem tracked_resolveVector (s : State) : Tracked s (resolveVector s).2 := by
  rcases resolveVector_cases s with ⟨-, h⟩ | ⟨-, h⟩ <;> rw [h]
  · exact tracked_intack _ _ _
  · exact (tracked_intack _ _ _).trans (tracked_intack _ _ _)

theorem tracked_pollRead (c : Chip) (s : State) : Tracked s (pollRead c s).2 := by
  rcases pollRead_cases c s with ⟨-, h⟩ | ⟨r, -, ⟨-, -, h⟩ | ⟨-, -, h⟩ | ⟨-, h⟩⟩ <;> rw [h]
  · exact .of_kept rfl rfl
  · exact tracked_setChip (retireLine_out _ _)
  · exact tracked_updateAndRecompute (retireLine_out _ _)
  · exact (tracked_setChip (retireLine_out _ _)).trans (tracked_updateAndRecompute (retireLine_out _ _))

theorem tracked_polled (c : Chip) (s : State) : Tracked s (polled c s) :=
  (tracked_pollRead c s).trans (tracked_setChip rfl)

theorem tracked_resetWith {f : ChipState → ChipState} (hf : ∀ k, (f k).out = k.out) (s : State) :
    Tracked s (resetWith f s) := by
  have hzeroed : Tracked s { s with primary := f s.primary, secondary := f s.secondary } := .of_kept rfl (hf _)
  exact hzeroed.trans ((tracked_recomputeOutput .secondary _).trans (tracked_recomputeOutput .primary _))

/-- A restore, performed or refused, notifies nothing (70_reset_and_hazards.md R257). -/
theorem restoreImage_events (m : PairImage) (s : State) : (restoreImage m s).events = s.events := by
  rcases restoreImage_cases m s with ⟨-, -, h⟩ | h <;> rw [h]
  rfl

/-- Every operation but a restore, which writes the output and notifies nothing, keeps the events in step with P's
output. -/
theorem Acts.tracked {i : Instr} {F : State → State} (hF : Acts i F) (hi : i ≠ .snapRestore) (s : State) :
    Tracked s (F s) := by
  cases hF with
  | write hw => exact tracked_updateAndRecompute (hw.out_eq _)
  | wrElcr => exact tracked_setChip rfl
  | read => exact tracked_emit_portRead _ s
  | rdPoll c => exact (tracked_polled c s).trans (tracked_emit_portRead _ _)
  | inta => exact (tracked_resolveVector s).trans (tracked_emit_vector _ _)
  | deviceReset => exact tracked_resetWith (f := ChipState.zeroed) (fun _ => rfl) s
  | coldReset => exact tracked_resetWith (f := ChipState.coldZeroed) (fun _ => rfl) s
  | snapRestore => exact absurd rfl hi
  | snapSave | fatal | refused => exact .of_kept rfl rfl

/-- Settles O52: P's output is written by recomputations alone, each with its notice, but for a restore. -/
theorem notificationsTrackPrimaryOutput : Obligations.NotificationsTrackPrimaryOutput := by
  intro i s t h
  constructor
  · intro hi
    obtain ⟨F, hF, rfl⟩ := acts_of_exec h
    exact hF.tracked hi s
  · rintro rfl
    have ht : restoreImage s.payload s = t := by simpa only [exec, execSnapRestore, Host.Outcome.next.injEq] using h
    rw [← ht, restoreImage_events]

end Sys2Proof.Machine
end

section
/-! SUPPORT. The request-line rules (41_request_lines.md): the line a device's SET_LEVEL reaches, a level given twice,
and the refused cascade line. -/

namespace Sys2Proof.Machine

/-! ## SET_LEVEL (41_request_lines.md R130) -/

/-- Bit 3 of a global line, `g >> 3`, tells the lines of P from those of S. -/
theorem globalChip_eq_ite (g : GlobalLine) : globalChip g = if g.toNat < 8 then .primary else .secondary := by
  revert g; decide

theorem globalLocal_toNat (g : GlobalLine) : (globalLocal g).toNat = g.toNat % 8 := by
  simp [globalLocal, BitVec.extractLsb'_toNat]

/-- Settles O3: the operation is a latch of line `g & 7` and a recomputation, on chip `g >> 3`. -/
theorem setLevelLatchesAndRecomputes : Obligations.SetLevelLatchesAndRecomputes := by
  intro g level s c i hg hc hi
  have hchip : globalChip g = c := (globalChip_eq_ite g).trans hc.symm
  have hline : globalLocal g = i := BitVec.eq_of_toNat_eq ((globalLocal_toNat g).trans hi.symm)
  obtain ⟨k, hlatched, hrecomputed⟩ := setLevelLocal_spec c i level s
  refine ⟨k, setLevelLocal c i level s, hlatched, hrecomputed, ?_⟩
  rw [exec_setLevel_of_ne g level s hg, hchip, hline]
  rfl

/-! ## The same level twice (41_request_lines.md R131) -/

theorem setChip_chip_self (c : Chip) (s : State) : s.setChip c (s.chip c) = s := by cases c <;> rfl

/-- A write that leaves the chip as it is leaves the recomputation. -/
theorem updateAndRecompute_of_fixed {c : Chip} {f : ChipState → ChipState} {s : State} (h : f (s.chip c) = s.chip c) :
    updateAndRecompute c f s = recomputeOutput c s := by
  rw [updateAndRecompute, h, setChip_chip_self]

/-- The written chip after the operation: what was written, with the output recomputed. -/
theorem updateAndRecompute_chip (c : Chip) (f : ChipState → ChipState) (s : State) :
    (updateAndRecompute c f s).chip c = { f (s.chip c) with out := presents c (f (s.chip c)) } := by
  have hself := (recomputeOutput_spec c (s.setChip c (f (s.chip c)))).self
  rwa [setChip_chip] at hself

/-- An idempotent write that does not read the output is idempotent with its recomputation too: the second write finds
the registers it would write, and the second recomputation the outputs and the wire as the first left them. -/
theorem updateAndRecompute_idem {f : ChipState → ChipState} (hidem : ∀ k, f (f k) = f k)
    (hout : ∀ k o, f { k with out := o } = { f k with out := o }) (c : Chip) (s : State) :
    updateAndRecompute c f (updateAndRecompute c f s) = updateAndRecompute c f s := by
  have hwritten : f ((updateAndRecompute c f s).chip c) = (updateAndRecompute c f s).chip c := by
    rw [updateAndRecompute_chip, hout, hidem]
  calc updateAndRecompute c f (updateAndRecompute c f s)
      = recomputeOutput c (updateAndRecompute c f s) := updateAndRecompute_of_fixed hwritten
    _ = updateAndRecompute c f s := recomputeOutput_idem c _

/-- Settles O5: giving a line a level is idempotent and does not read the output. -/
theorem setLevelTwiceIsOnce : Obligations.SetLevelTwiceIsOnce := by
  intro g level s t hg h
  rw [exec_setLevel_of_ne g level s hg, Host.Outcome.next.injEq] at h
  subst h
  rw [exec_setLevel_of_ne g level _ hg]
  exact congrArg Host.Outcome.next <|
    updateAndRecompute_idem (latchLevel_idem _ level) (fun k o => latchLevel_with_out _ level o k) _ s

/-! ## The cascade line (41_request_lines.md R132) -/

theorem exec_setLevel_cascadeLine (level : Bool) (s : State) :
    exec (.setLevel 2 level) s = .next (refuse .externalCascadeLine s) :=
  congrArg Host.Outcome.next (if_pos rfl)

/-- Settles O4: both forms of the operation are the one refusal. -/
theorem setLevelOnCascadeLineIsRefused : Obligations.SetLevelOnCascadeLineIsRefused := fun level s =>
  ⟨refuse .externalCascadeLine s, refusedFor_refuse _ s, rfl, exec_setLevel_cascadeLine level s⟩

end Sys2Proof.Machine
end

section
/-! SUPPORT. The acknowledge rules (42_acknowledge.md): the line INTA takes of a chip, and its two forms, on a line of P
and through the cascade. -/

namespace Sys2Proof.Machine

/-! ## The line taken (42_acknowledge.md R140, R143) -/

theorem pendingIrq_of_presentsNothing {c : Chip} {k : ChipState} (h : PresentsNothing c k) : pendingIrq c k = none :=
  Option.eq_none_iff_forall_ne_some.mpr fun r hr => h r (presented_of_pendingIrq hr)

/-- An acknowledge takes the line presented and, where none is, line 7. -/
theorem ackedLine_eq {c : Chip} {k : ChipState} {r : Line}
    (h : Presented c k r ∨ (PresentsNothing c k ∧ r = 7)) : ackedLine c k = r := by
  obtain hpresented | ⟨hnothing, rfl⟩ := h
  · rw [ackedLine, pendingIrq_of_presented hpresented, Option.getD_some]
  · rw [ackedLine, pendingIrq_of_presentsNothing hnothing, Option.getD_none, Config.spuriousLine]

/-! ## INTA (42_acknowledge.md R140 to R142) -/

/-- The vector of line `r`: the chip's base plus the line (R142). -/
theorem vec_eq_add (k : ChipState) (r : Line) : vec k r = k.irqBase + BitVec.ofNat 8 r.toNat := by
  rw [vec, vectorOf, lineByte, BitVec.ofNat_toNat]

/-- INTA shows the resolved vector after the notifications of its acknowledges (log 11). -/
theorem exec_inta_of_resolveVector {s t : State} {k : ChipState} {r : Line} (h : resolveVector s = (vec k r, t)) :
    exec .inta s =
      .next { t with events := t.events ++ [.vector (k.irqBase + BitVec.ofNat 8 r.toNat)] } := by
  have hexec : exec .inta s = .next ((resolveVector s).2.emit (.vector (resolveVector s).1)) := rfl
  rw [hexec, h, vec_eq_add, State.emit]

theorem resolveVector_of_primaryLine {s : State} {r : Line} (hline : ackedLine .primary s.primary = r) (hr : r ≠ 2) :
    resolveVector s = (vec s.primary r, intack .primary r s) := by
  subst hline
  obtain ⟨-, hresolved⟩ | ⟨hcascade, -⟩ := resolveVector_cases s
  · exact hresolved
  · exact absurd hcascade hr

theorem resolveVector_of_cascadeLine {s : State} {r : Line} (hcascade : ackedLine .primary s.primary = 2)
    (hline : ackedLine .secondary s.secondary = r) :
    resolveVector s = (vec s.secondary r, intack .primary 2 (intack .secondary r s)) := by
  subst hline
  obtain ⟨hother, -⟩ | ⟨-, hresolved⟩ := resolveVector_cases s
  · exact absurd hcascade hother
  · exact hresolved

/-- Settles O7: the line INTA takes is not the cascade line, so it is acknowledged on P alone. -/
theorem intaAcknowledgesPrimaryLine : Obligations.IntaAcknowledgesPrimaryLine := by
  intro s r hr htaken
  obtain ⟨k, hacked, hrecomputed⟩ := intack_spec .primary r s
  have hresolved := resolveVector_of_primaryLine (ackedLine_eq htaken) hr
  exact ⟨k, intack .primary r s, hacked, hrecomputed, exec_inta_of_resolveVector hresolved⟩

/-- Settles O8: the acknowledge of S comes first, and that of P starts from the state it leaves. -/
theorem intaAcknowledgesCascadedLine : Obligations.IntaAcknowledgesCascadedLine := by
  intro s r hcascade htaken
  obtain ⟨kS, hackedS, hrecomputedS⟩ := intack_spec .secondary r s
  obtain ⟨kP, hackedP, hrecomputedP⟩ := intack_spec .primary 2 (intack .secondary r s)
  have hresolved := resolveVector_of_cascadeLine (ackedLine_eq (.inl hcascade)) (ackedLine_eq htaken)
  exact ⟨kS, intack .secondary r s, kP, intack .primary 2 (intack .secondary r s), hackedS, hrecomputedS, hackedP,
    hrecomputedP, exec_inta_of_resolveVector hresolved⟩

end Sys2Proof.Machine
end

section
/-! SUPPORT. The command-port rules (43_command_port.md): every write there but ICW1_LTIM rewrites the registers of one
chip and recomputes it, so what a command does is what its register write makes of the chip. -/

namespace Sys2Proof.Machine

/-! ## Register writes as operations (43_command_port.md R160, 40_arbitration.md R116) -/

theorem RegisterWrite.exec_eq {i : Instr} {c : Chip} {f : ChipState → ChipState} (h : RegisterWrite i c f) (s : State) :
    exec i s = .next (updateAndRecompute c f s) := by
  cases h with
  | nop l => rw [updateAndRecompute_id]; rfl
  | setLevel g level hg => exact exec_setLevel_of_ne g level s hg
  | _ => rfl

/-- A register operation completes with chip `c`'s registers as its write leaves them and `c` recomputed. -/
theorem RegisterWrite.exec_recomputes {i : Instr} {c : Chip} {f : ChipState → ChipState} (h : RegisterWrite i c f)
    {s : State} {k : ChipState} (hk : f (s.chip c) = k) : ∃ t, Recomputed c k s t ∧ exec i s = .next t := by
  subst hk
  exact ⟨_, updateAndRecompute_spec c f s (h.out_eq _), h.exec_eq s⟩

/-! ## Non-specific end of interrupt (43_command_port.md R165, R169) -/

theorem nonSpecificEoi_of_some {k : ChipState} {q : Line} (h : highestInService k = some q) :
    nonSpecificEoi k = specificEoi q k := by
  simp only [nonSpecificEoi, h]

theorem nonSpecificEoiRotate_of_some {k : ChipState} {q : Line} (h : highestInService k = some q) :
    nonSpecificEoiRotate k = rotate q (specificEoi q k) := by
  simp only [nonSpecificEoiRotate, h]

theorem nonSpecificEoi_of_none {k : ChipState} (h : highestInService k = none) : nonSpecificEoi k = k := by
  simp only [nonSpecificEoi, h]

theorem nonSpecificEoiRotate_of_none {k : ChipState} (h : highestInService k = none) : nonSpecificEoiRotate k = k := by
  simp only [nonSpecificEoiRotate, h]

/-- Settles O15: the in-service line of least rank is the one the scan of `isr` finds, and both codes are a specific EOI
of it. -/
theorem ocw2NonSpecificEoiClearsHighestInService : Obligations.Ocw2NonSpecificEoiClearsHighestInService := by
  intro c l q s hq hleast
  have hfound : highestInService (s.chip c) = some q := (highestInService_eq_some _ q).mpr ⟨hq, hleast⟩
  exact ⟨setBit (s.chip c).isr q false, bitWritten_setBit _ q false,
    (RegisterWrite.eoi c l).exec_recomputes (nonSpecificEoi_of_some hfound),
    (RegisterWrite.rotEoi c l).exec_recomputes (nonSpecificEoiRotate_of_some hfound)⟩

/-- Settles O16: with `isr` 0 the scan finds no line. -/
theorem ocw2NonSpecificEoiOfNothing : Obligations.Ocw2NonSpecificEoiOfNothing := by
  intro c l s hisr
  have hnothing : highestInService (s.chip c) = none := highestInService_eq_none _ hisr
  exact ⟨(RegisterWrite.eoi c l).exec_recomputes (nonSpecificEoi_of_none hnothing),
    (RegisterWrite.rotEoi c l).exec_recomputes (nonSpecificEoiRotate_of_none hnothing)⟩

/-! ## The other OCW2 codes (43_command_port.md R164, R166 to R168, R170, R171) -/

/-- Settles O13: the write of each code is the flag's new value, or nothing. -/
theorem ocw2RotateFlagAndNoOperation : Obligations.Ocw2RotateFlagAndNoOperation := fun c l _ =>
  ⟨(RegisterWrite.clrRotaeoi c l).exec_recomputes rfl, (RegisterWrite.setRotaeoi c l).exec_recomputes rfl,
    (RegisterWrite.nop c l).exec_recomputes rfl⟩

/-- Settles O14: codes 3 and 7 clear the one bit by the same write, and codes 6 and 7 rotate by the same write. -/
theorem ocw2SpecificCodes : Obligations.Ocw2SpecificCodes := fun c l s =>
  ⟨setBit (s.chip c).isr l false, bitWritten_setBit _ l false, (RegisterWrite.seoi c l).exec_recomputes rfl,
    (RegisterWrite.setpri c l).exec_recomputes rfl, (RegisterWrite.rotSeoi c l).exec_recomputes rfl⟩

/-! ## OCW3 (43_command_port.md R172) -/

/-- The flags OCW3 loads, as the boolean functions of 30_encoding.md R86. -/
theorem loadOcw3_eq (val : Byte) (k : ChipState) :
    loadOcw3 val k =
      { k with
        poll := k.poll || val.getLsbD 2
        readRegSelect := bif val.getLsbD 1 then val.getLsbD 0 else k.readRegSelect
        specialMask := bif val.getLsbD 6 then val.getLsbD 5 else k.specialMask } := by
  have hpoll : (if val.getLsbD 2 then true else k.poll) = (k.poll || val.getLsbD 2) := by
    cases val.getLsbD 2 <;> simp
  simp only [loadOcw3, hpoll, Bool.cond_eq_ite]

/-- Settles O17: the loads of the three flags, each under its enable. -/
theorem ocw3LoadsTheSelectedFlags : Obligations.Ocw3LoadsTheSelectedFlags := fun c val s =>
  (RegisterWrite.ocw3 c val).exec_recomputes (loadOcw3_eq val (s.chip c))

/-! ## ICW1 (43_command_port.md R161, R162) -/

/-- The chip as ICW1 leaves it, the recomputation apart. -/
def icw1Chip (val : Byte) (k : ChipState) : ChipState :=
  { zeroChip k.elcr k.elcrMask with init4 := val.getLsbD 0, singleMode := val.getLsbD 1, initState := .awaitIcw2 }

/-- ICW1's own write keeps the output level, which the recomputation then gives. -/
theorem loadIcw1_zeroed (val : Byte) (k : ChipState) : loadIcw1 val k.zeroed = { icw1Chip val k with out := k.out } :=
  rfl

/-- A recomputation does not read the output it rewrites. -/
theorem Recomputed.of_with_out {c : Chip} {k : ChipState} {s t : State} {b : Bool}
    (h : Recomputed c { k with out := b } s t) : Recomputed c k s t :=
  ⟨h.self, h.primaryAlone, h.cascade, h.events, h.pair⟩

/-- A chip with no request latched is recomputed to output 0 (40_arbitration.md R111, R112). -/
theorem Recomputed.out_of_no_request {c : Chip} {k : ChipState} {s t : State} (h : Recomputed c k s t)
    (hk : k.irr = 0) : (t.chip c).out = false := by
  have hnone : presents c k = false := by rw [presents, pendingIrq_of_no_request c k hk]; rfl
  rw [h.self, hnone]

/-- Settles O11: ICW1 zeroes the requests with the rest, so the recomputation gives output 0. -/
theorem icw1ReinitialisesTheChip : Obligations.Icw1ReinitialisesTheChip := by
  intro c val s
  obtain ⟨t, hwritten, hexec⟩ :=
    (RegisterWrite.icw1 c val).exec_recomputes (s := s) (loadIcw1_zeroed val (s.chip c))
  have hrec : Recomputed c (icw1Chip val (s.chip c)) s t := hwritten.of_with_out
  exact ⟨t, hrec, hrec.out_of_no_request rfl, hexec⟩

/-- A recorded fault stops every step (60_exceptions.md R220). -/
theorem step_of_fault {s : State} {f : Fault} (h : s.fault = some f) : step s = .fault f := by
  simp only [step, h]

/-- Settles O12: the operation records the fault alone, and a recorded fault stops the step. -/
theorem icw1LtimIsFatal : Obligations.Icw1LtimIsFatal := fun _ _ _ => ⟨rfl, step_of_fault rfl⟩

end Sys2Proof.Machine
end

section
/-! SUPPORT. The data-port and ELCR-port rules (44_data_elcr_ports.md): the writes of a chip's registers, the reads,
the poll read in its four shapes, and the initialisation sequencer that ICW1 starts and the data-port writes advance. -/

namespace Sys2Proof.Machine

/-! ## Data-port writes (44_data_elcr_ports.md R191 to R194) -/

/-- Settles O20: the write is the mask alone. -/
theorem ocw1SetsTheMask : Obligations.Ocw1SetsTheMask := fun c val _ =>
  (RegisterWrite.ocw1 c val).exec_recomputes rfl

theorem bit_vectorBase (val : Byte) (j : Line) : bit (vectorBase val) j = (bit val j && decide (3 ≤ j.toNat)) := by
  have hmask : bit (0xF8 : Byte) j = decide (3 ≤ j.toNat) := by revert j; decide
  rw [vectorBase, bit_and, hmask]

/-- The sequencer's state after ICW2, by the two flags it reads (R192, R200). -/
theorem afterIcw2_eq (k : ChipState) :
    afterIcw2 k =
      match k.singleMode, k.init4 with
      | false, _ => .awaitIcw3
      | true, true => .awaitIcw4
      | true, false => .normal := by
  unfold afterIcw2 afterIcw3
  cases k.singleMode <;> cases k.init4 <;> rfl

/-- Settles O21: the base is the byte under the mask of its high five bits, and the sequencer goes on by its flags. -/
theorem icw2SetsTheVectorBase : Obligations.Icw2SetsTheVectorBase := by
  intro c val s
  obtain ⟨t, hrec, hexec⟩ := (RegisterWrite.icw2 c val).exec_recomputes (s := s) rfl
  rw [afterIcw2_eq] at hrec
  exact ⟨vectorBase val, t, bit_vectorBase val, hrec, hexec⟩

/-- Settles O22: the write of ICW3 is the sequencer's next state, that of ICW4 its end and the two modes. -/
theorem icw3AndIcw4 : Obligations.Icw3AndIcw4 := fun c val _ =>
  ⟨(RegisterWrite.icw3 c val).exec_recomputes rfl, (RegisterWrite.icw4 c val).exec_recomputes rfl⟩

/-! ## The ELCR port (44_data_elcr_ports.md R198, R199) -/

theorem SamePair.trans {s t u : State} (h : SamePair s t) (h' : SamePair t u) : SamePair s u :=
  ⟨h'.fault.trans h.fault, h'.refused.trans h.refused, h'.refusals.trans h.refusals,
    h'.snapshots.trans h.snapshots, h'.inbox.trans h.inbox, h'.payload.trans h.payload⟩

theorem samePair_emit (e : Event) (s : State) : SamePair s (s.emit e) := ⟨rfl, rfl, rfl, rfl, rfl, rfl⟩

theorem samePair_setChip (c : Chip) (k : ChipState) (s : State) : SamePair s (s.setChip c k) := by
  cases c <;> exact ⟨rfl, rfl, rfl, rfl, rfl, rfl⟩

theorem setChip_events (c : Chip) (k : ChipState) (s : State) : (s.setChip c k).events = s.events := by
  cases c <;> rfl

/-- A word whose low byte is zero has no bit in common with a byte. -/
theorem and_byte_eq_zero {w : TWord} (hw : w.extractLsb' 0 8 = (0 : Byte)) (v : Byte) : w &&& v.setWidth 16 = 0 := by
  refine BitVec.eq_of_getLsbD_eq fun n _ => ?_
  rw [BitVec.getLsbD_and, getLsbD_setWidth_word v (by decide), BitVec.ofNat_eq_ofNat, BitVec.getLsbD_zero]
  by_cases hn : n < 8
  · rw [getLsbD_of_extractLsb'_eq_zero hw (Nat.zero_le n) (by omega), Bool.false_and]
  · rw [BitVec.getLsbD_of_ge v n (by omega), Bool.and_false]

/-- A sum of such a word and a byte, as natural numbers, is the word with the byte written into it. -/
theorem ofNat_add_byte {w : Nat} (hw : (BitVec.ofNat 16 w).extractLsb' 0 8 = (0 : Byte)) (v : Byte) :
    BitVec.ofNat 16 (w + v.toNat) = BitVec.ofNat 16 w ||| v.setWidth 16 := by
  rw [BitVec.ofNat_add, BitVec.ofNat_toNat, BitVec.add_eq_or_of_and_eq_zero _ _ (and_byte_eq_zero hw v)]

/-- The word of `out c.ELCR, v` by its fields' places (30_encoding.md R81). -/
theorem ofNat_eq_outElcr (c : Chip) (v : Byte) :
    BitVec.ofNat 16 (0x1000 + (if c = .primary then 0 else 2 ^ 13) + v.toNat) = outElcr c v := by
  rw [outElcr]
  cases c with
  | primary => exact ofNat_add_byte (by decide) v
  | secondary => exact ofNat_add_byte (by decide) v

/-- Settles O23: the word is the assembler's, and the operation is a write of one field of one chip. -/
theorem elcrWriteStoresTheMaskedByte : Obligations.ElcrWriteStoresTheMaskedByte := by
  intro c val s ctx
  refine ⟨elcrValue val (s.chip c).elcrMask, s.setChip c { s.chip c with elcr := elcrValue val (s.chip c).elcrMask },
    ?_, fun j => bit_and _ _ j, setChip_chip s c _, fun c' hc' => setChip_chip_other s c c' _ hc',
    setChip_events c _ s, samePair_setChip c _ s, rfl⟩
  rw [ofNat_eq_outElcr, decode_outElcr]

/-! ## Reads (44_data_elcr_ports.md R195, R197, R199) -/

/-- Settles O24: the two words are the two data-port reads. -/
theorem dataReadReturnsTheMask : Obligations.DataReadReturnsTheMask := by
  intro c s ctx
  have hword : (if c = .primary then 0x4800 else 0x6800) = readWord false true c := by cases c <;> rfl
  exact ⟨by rw [hword, decode_readData], rfl⟩

/-- Settles O25: the two words are the two ELCR-port reads. -/
theorem elcrReadReturnsElcr : Obligations.ElcrReadReturnsElcr := by
  intro c s ctx
  have hword : (if c = .primary then 0x5000 else 0x7000) = readWord true false c := by cases c <;> rfl
  exact ⟨by rw [hword, decode_readElcr], rfl⟩

/-- A command-port read without a poll emits the register `read_reg_select` names (10_state.md R28). -/
theorem exec_rdCmd (c : Chip) (s : State) :
    exec (.rdCmd c) s =
      .next (s.emit (.portRead (if (s.chip c).readRegSelect then (s.chip c).isr else (s.chip c).irr))) := rfl

/-- Settles O26: the flag selects the register emitted. -/
theorem commandReadReturnsTheSelectedRegister : Obligations.CommandReadReturnsTheSelectedRegister := by
  intro c s
  constructor
  · intro hsel
    rw [exec_rdCmd, hsel, if_pos rfl, State.emit]
  · intro hsel
    rw [exec_rdCmd, hsel, if_neg Bool.false_ne_true, State.emit]

/-! ## The poll read (44_data_elcr_ports.md R196) -/

/-- A line as a poll read returns it. -/
theorem lineByte_eq_ofNat (r : Line) : lineByte r = BitVec.ofNat 8 r.toNat := by rw [lineByte, BitVec.ofNat_toNat]

/-- A poll read returns its byte after the notifications, `poll` cleared (log 11). -/
theorem exec_rdPoll (c : Chip) (s : State) :
    exec (.rdPoll c) s = .next ((polled c s).emit (.portRead (pollRead c s).1)) := rfl

/-- The poll read once its line and effect are known. -/
theorem exec_rdPoll_of_pollRead {c : Chip} {s t : State} {v : Byte} (h : pollRead c s = (v, t)) :
    exec (.rdPoll c) s = .next ((t.setChip c { t.chip c with poll := false }).emit (.portRead v)) := by
  rw [exec_rdPoll, polled, h]

/-- A poll that finds a line has that line in its shape. -/
theorem pollRead_shape_of_presented {c : Chip} {s : State} {r : Line} (h : Presented c (s.chip c) r) :
    (c = .primary ∧ r = 2 ∧ pollRead c s = (2, s.setChip .primary (retireLine 2 s.primary))) ∨
    (c = .primary ∧ r ≠ 2 ∧ pollRead c s = (lineByte r, updateAndRecompute .primary (retireLine r) s)) ∨
    (c = .secondary ∧
      pollRead c s =
        (lineByte r,
          updateAndRecompute .secondary (retireLine r) (s.setChip .primary (retireLine 2 s.primary)))) := by
  have hfound : pendingIrq c (s.chip c) = some r := pendingIrq_of_presented h
  obtain ⟨hnone, -⟩ | ⟨q, hq, hshape⟩ := pollRead_cases c s
  · cases hnone.symm.trans hfound
  · cases hq.symm.trans hfound
    exact hshape

theorem pollRead_of_presentsNothing {c : Chip} {s : State} (h : PresentsNothing c (s.chip c)) :
    pollRead c s = (7, s) := by
  obtain ⟨-, hpoll⟩ | ⟨q, hq, -⟩ := pollRead_cases c s
  · exact hpoll
  · exact absurd (presented_of_pendingIrq hq) (h q)

/-- Settles O27: the poll read does nothing itself, and the port read clears `poll`. -/
theorem pollReadFindsNothing : Obligations.PollReadFindsNothing := by
  intro c s hnothing
  refine ⟨_, ?_, fun c' hc' => ?_, ?_, (samePair_setChip c _ s).trans (samePair_emit _ _),
    exec_rdPoll_of_pollRead (pollRead_of_presentsNothing hnothing)⟩
  · rw [emit_chip, setChip_chip]
  · rw [emit_chip, setChip_chip_other _ _ _ _ hc']
  · rw [emit_events, setChip_events]

/-- Settles O29: the cascade line's shape writes P's two registers alone. -/
theorem pollReadOfCascadeLineLeavesOutputStale : Obligations.PollReadOfCascadeLineLeavesOutputStale := by
  intro s hpresented
  obtain ⟨-, -, hpoll⟩ | ⟨-, hne, -⟩ | ⟨⟨⟩, -⟩ := pollRead_shape_of_presented (c := .primary) hpresented
  · exact ⟨retireLine 2 s.primary, retireLine_spec 2 s.primary, exec_rdPoll_of_pollRead hpoll⟩
  · exact absurd rfl hne

/-- Clearing `poll` after a recomputation is clearing it before: no recomputation reads it. -/
theorem Recomputed.clearPoll {c : Chip} {k : ChipState} {s t : State} (h : Recomputed c k s t) :
    Recomputed c { k with poll := false } s (t.setChip c { t.chip c with poll := false }) where
  self := (setChip_chip t c _).trans (congrArg (fun k' : ChipState => { k' with poll := false }) h.self)
  primaryAlone := by rintro rfl; exact h.primaryAlone rfl
  cascade := by rintro rfl; exact h.cascade rfl
  events := by cases c <;> exact h.events
  pair := h.pair.trans (samePair_setChip c _ t)

/-- A poll read that retires a line and recomputes its chip, from a pair `u` that it made ready before. -/
theorem exec_rdPoll_recomputes {c : Chip} {s u : State} {r : Line}
    (h : pollRead c s = (lineByte r, updateAndRecompute c (retireLine r) u)) :
    ∃ t, Recomputed c { retireLine r (u.chip c) with poll := false } u t ∧
      exec (.rdPoll c) s = .next { t with events := t.events ++ [.portRead (BitVec.ofNat 8 r.toNat)] } := by
  rw [lineByte_eq_ofNat] at h
  exact ⟨_, (updateAndRecompute_spec c (retireLine r) u (retireLine_out r _)).clearPoll, exec_rdPoll_of_pollRead h⟩

/-- Settles O28: the poll of P retires its line and recomputes P. -/
theorem pollReadOfPrimary : Obligations.PollReadOfPrimary := by
  intro s r hpresented hr
  obtain ⟨-, hcascade, -⟩ | ⟨-, -, hpoll⟩ | ⟨⟨⟩, -⟩ := pollRead_shape_of_presented (c := .primary) hpresented
  · exact absurd hcascade hr
  · exact ⟨retireLine r s.primary, (exec_rdPoll_recomputes hpoll).imp fun _ h => ⟨retireLine_spec r s.primary, h⟩⟩

/-- Settles O30: the poll of S is one from the pair whose P has its cascade line retired. -/
theorem pollReadOfSecondary : Obligations.PollReadOfSecondary := by
  intro s r hpresented
  obtain ⟨⟨⟩, -⟩ | ⟨⟨⟩, -⟩ | ⟨-, hpoll⟩ := pollRead_shape_of_presented (c := .secondary) hpresented
  obtain ⟨t, hrecomputed, hexec⟩ := exec_rdPoll_recomputes hpoll
  exact ⟨retireLine 2 s.primary, retireLine r s.secondary, t, retireLine_spec 2 s.primary,
    retireLine_spec r s.secondary, hrecomputed, hexec⟩

/-! ## The initialisation sequencer (44_data_elcr_ports.md R200, 10_state.md R36) -/

/-- A register operation moves its own chip's sequencer as the table says. -/
theorem RegisterWrite.initState_eq {i : Instr} {c : Chip} {f : ChipState → ChipState} (h : RegisterWrite i c f)
    (k : ChipState) : (f k).initState = sequencerAfter i c k := by
  cases h with
  | icw1 | icw3 | icw4 => exact (if_pos rfl).symm
  | icw2 => exact (afterIcw2_eq k).trans (if_pos rfl).symm
  | eoi => exact nonSpecificEoi_initState k
  | rotEoi => exact nonSpecificEoiRotate_initState k
  | setLevel => exact latchLevel_initState _ _ k
  | _ => rfl

/-- A register operation leaves the other chip's sequencer, as the table says too. -/
theorem RegisterWrite.sequencerAfter_other {i : Instr} {c c' : Chip} {f : ChipState → ChipState}
    (h : RegisterWrite i c f) (hc : c' ≠ c) (k : ChipState) : sequencerAfter i c' k = k.initState := by
  cases h with
  | icw1 | icw2 | icw3 | icw4 => exact if_neg hc.symm
  | _ => rfl

theorem RegisterWrite.sequenced {i : Instr} {c' : Chip} {f : ChipState → ChipState} (h : RegisterWrite i c' f)
    {s t : State} (hexec : exec i s = .next t) (c : Chip) : (t.chip c).initState = sequencerAfter i c (s.chip c) := by
  cases (h.exec_eq s).symm.trans hexec
  rw [updateAndRecompute_field ChipState.initState (fun _ _ => rfl) fun _ _ => latchLevel_initState _ _ _]
  by_cases hc : c = c'
  · subst hc
    rw [if_pos rfl, h.initState_eq]
  · rw [if_neg hc, h.sequencerAfter_other hc]

/-- Where the table keeps the sequencer, so does every single write but a restore's. -/
theorem ChipWrite.initState_eq {i : Instr} {c : Chip} {k k' : ChipState} (h : ChipWrite i c k k')
    (hkept : ∀ k, sequencerAfter i c k = k.initState) (hrestore : i ≠ .snapRestore) : k'.initState = k.initState := by
  cases h with
  | register hw => exact (hw.initState_eq k).trans (hkept k)
  | wire => exact latchLevel_initState _ _ k
  | ack => exact ackLine_initState _ k
  | deviceReset hi | coldReset hi => subst hi; exact hkept k
  | restore hi => exact absurd hi hrestore
  | _ => rfl

theorem exec_sequenced_of_kept {i : Instr} {s t : State} {c : Chip} (h : exec i s = .next t)
    (hkept : ∀ k, sequencerAfter i c k = k.initState) (hrestore : i ≠ .snapRestore) :
    (t.chip c).initState = sequencerAfter i c (s.chip c) := by
  rw [hkept]
  exact exec_keeps (fun k => k.initState = (s.chip c).initState)
    (fun _ _ hw hk => (hw.initState_eq hkept hrestore).trans hk) h rfl

/-- A reset that ends the sequence on each chip ends it on both. -/
theorem resetWith_initState {f : ChipState → ChipState} (hf : ∀ k, (f k).initState = .normal) (s : State) (c : Chip) :
    ((resetWith f s).chip c).initState = .normal := by
  have hfield := recomputeOutput_field ChipState.initState (fun _ _ => rfl) fun _ _ => latchLevel_initState _ _ _
  rw [resetWith, hfield, hfield]
  cases c <;> exact hf _

/-- Settles O51: ICW1 to ICW4 move the sequencer by their register write and the resets end it; every other operation
is made of writes that keep it. -/
theorem sequencerFollowsItsTable : Obligations.SequencerFollowsItsTable := by
  intro i s t c hrestore h
  cases i with
  | icw1 c' val => exact (RegisterWrite.icw1 c' val).sequenced h c
  | icw2 c' val => exact (RegisterWrite.icw2 c' val).sequenced h c
  | icw3 c' val => exact (RegisterWrite.icw3 c' val).sequenced h c
  | icw4 c' val => exact (RegisterWrite.icw4 c' val).sequenced h c
  | deviceReset => cases h; exact resetWith_initState (f := ChipState.zeroed) (fun _ => rfl) s c
  | coldReset => cases h; exact resetWith_initState (f := ChipState.coldZeroed) (fun _ => rfl) s c
  | snapRestore => exact absurd rfl hrestore
  | _ => exact exec_sequenced_of_kept h (fun _ => rfl) hrestore

end Sys2Proof.Machine
end

section
/-! SUPPORT. The exception rules (60_exceptions.md): the fatal misconfiguration and the steps it stops, the operations
that end a service or a request, the global priority order, and the order of device calls. -/

namespace Sys2Proof.Machine

/-! ## The fatal misconfiguration (60_exceptions.md R220, R222) -/

theorem exec_completes (i : Instr) (s : State) : ∃ t, exec i s = .next t := by
  obtain ⟨F, -, hexec⟩ := exec_acts i
  exact ⟨F s, hexec s⟩

/-- Settles O46: a recorded fault is the only branch of the step that is no next state. -/
theorem stepStopsExactlyWhenFaulted : Obligations.StepStopsExactlyWhenFaulted := by
  intro s
  refine ⟨fun f hf => step_of_fault hf, fun hf => ?_⟩
  obtain ⟨f, hfault, -⟩ | ⟨-, -, hs⟩ | ⟨o, rest, i, -, -, -, hs⟩ | ⟨o, rest, r, -, -, -, hs⟩ := step_cases s
  · rw [hf] at hfault; cases hfault
  · exact ⟨s, hs⟩
  · rw [hs]; exact exec_completes i _
  · exact ⟨_, hs⟩

theorem setChip_fault (c : Chip) (k : ChipState) (s : State) : (s.setChip c k).fault = s.fault :=
  (samePair_setChip c k s).fault

theorem recomputeOutput_fault (c : Chip) (s : State) : (recomputeOutput c s).fault = s.fault :=
  (recomputeOutput_spec c s).pair.fault

theorem updateAndRecompute_fault (c : Chip) (f : ChipState → ChipState) (s : State) :
    (updateAndRecompute c f s).fault = s.fault := by
  rw [updateAndRecompute, recomputeOutput_fault, setChip_fault]

theorem resolveVector_fault (s : State) : (resolveVector s).2.fault = s.fault := by
  rcases resolveVector_cases s with ⟨-, h⟩ | ⟨-, h⟩ <;> simp only [h, intack, updateAndRecompute_fault]

theorem pollRead_fault (c : Chip) (s : State) : (pollRead c s).2.fault = s.fault := by
  rcases pollRead_cases c s with ⟨-, h⟩ | ⟨r, -, ⟨-, -, h⟩ | ⟨-, -, h⟩ | ⟨-, h⟩⟩ <;>
    simp only [h, updateAndRecompute_fault, setChip_fault]

theorem restoreImage_fault (m : PairImage) (s : State) : (restoreImage m s).fault = s.fault := by
  rcases restoreImage_cases m s with ⟨-, -, h⟩ | h <;> rw [h]
  rfl

/-- An operation leaves `fault` as it is, unless it is ICW1 with the level-triggered bit. -/
theorem Acts.fault_eq {i : Instr} {F : State → State} (hF : Acts i F) (s : State) :
    (F s).fault = s.fault ∨ ∃ c val, i = .icw1Ltim c val ∧ (F s).fault = some (.levelTriggeredIcw1 c val) := by
  cases hF with
  | write => exact .inl (updateAndRecompute_fault _ _ s)
  | wrElcr => exact .inl (setChip_fault _ _ s)
  | rdPoll c => exact .inl ((setChip_fault _ _ _).trans (pollRead_fault c s))
  | inta => exact .inl (resolveVector_fault s)
  | deviceReset | coldReset => exact .inl ((recomputeOutput_fault _ _).trans (recomputeOutput_fault _ _))
  | snapRestore => exact .inl (restoreImage_fault _ s)
  | fatal c val => exact .inr ⟨c, val, rfl, rfl⟩
  | read | snapSave | refused => exact .inl rfl

theorem decode_of_readOffer_ok {s : State} {o : Offer} {i : Instr} (h : readOffer s o = .ok i) :
    decode s.decodeContext o.word = .ok i := by
  unfold readOffer at h
  split at h
  · cases h
  · split at h
    · cases h; assumption
    · cases h

/-- A port word that is not refused is a one-byte access (20_memory.md R63). -/
theorem width_of_readOffer_ok {s : State} {o : Offer} {i : Instr} (h : readOffer s o = .ok i)
    (hport : o.word.getLsbD 15 = false) : o.width = 1 := by
  by_contra hw
  rw [readOffer_of_width_ne_one s o hport hw] at h
  cases h

theorem getLsbD_fifteen_outCmd (c : Chip) (v : Byte) : (outCmd c v).getLsbD 15 = false := by
  rw [outCmd_eq_portWord, getLsbD_portWord]
  simp

/-- Settles O47: the fault is empty before the step, and of the operations a step performs ICW1_LTIM alone writes it;
that its offer was read as this operation fixes the word, its width and the two bits. -/
theorem onlyLevelTriggeredIcw1IsFatal : Obligations.OnlyLevelTriggeredIcw1IsFatal := by
  intro s t h
  obtain ⟨f, -, hs⟩ | ⟨hf, -, hs⟩ | ⟨o, rest, i, hf, hinbox, hread, hs⟩ | ⟨o, rest, r, hf, -, -, hs⟩ :=
    step_cases s <;> rw [hs] at h
  · cases h
  · cases h; exact .inl hf
  · obtain ⟨F, hF, rfl⟩ := acts_of_exec h
    obtain hkept | ⟨c, val, rfl, hfatal⟩ := hF.fault_eq (takeOffer o rest s)
    · exact .inl (hkept.trans hf)
    · obtain ⟨hwf, -, hword⟩ := encodeOfDecode _ _ _ (decode_of_readOffer_ok hread)
      rw [Instr.wf, Bool.and_eq_true] at hwf
      obtain ⟨h4, h3⟩ := hwf
      have hwidth := width_of_readOffer_ok hread (hword ▸ getLsbD_fifteen_outCmd c val)
      exact .inr ⟨c, val, o, rest, hinbox, hword.symm, hwidth, h4, h3, hfatal⟩
  · cases h; exact .inl hf

/-! ## The end of a service (60_exceptions.md R226) -/

theorem bit_setBit_false_of_ne {m : Byte} {i j : Line} (hm : bit m j = true) (hj : j ≠ i) :
    bit (setBit m i false) j = true := by
  rw [bit_setBit, if_neg hj, hm]

theorem bit_ackLine_isr {l j : Line} {k : ChipState} (h : bit k.isr j = true) : bit (ackLine l k).isr j = true := by
  rw [(ackLine_spec l k).isr j]
  by_cases hj : j = l
  · subst hj; simp [h]
  · rw [if_neg hj, h]

/-- Of the writes of a register operation the EOI codes and ICW1 alone clear a bit of `isr`. -/
theorem RegisterWrite.keeps_isr {i : Instr} {c : Chip} {f : ChipState → ChipState} (h : RegisterWrite i c f)
    {k : ChipState} {j : Line} (hi : ¬ MayEndService i c j) (hj : bit k.isr j = true) : bit (f k).isr j = true := by
  cases h with
  | icw1 | eoi | rotEoi => exact absurd (by simp [MayEndService, Reinitialises]) hi
  | seoi _ l | rotSeoi _ l =>
    exact bit_setBit_false_of_ne hj fun hl => hi (by subst hl; simp [MayEndService])
  | setLevel => rwa [latchLevel_isr]
  | _ => exact hj

/-- The single writes that clear a bit of `isr`, a poll read's apart. -/
theorem ChipWrite.keeps_isr {i : Instr} {c : Chip} {k k' : ChipState} (h : ChipWrite i c k k') {j : Line}
    (hi : ¬ MayEndService i c j) (hpoll : ∀ c', i ≠ .rdPoll c') (hj : bit k.isr j = true) : bit k'.isr j = true := by
  cases h with
  | register hw => exact hw.keeps_isr hi hj
  | wire => rwa [latchLevel_isr]
  | ack => exact bit_ackLine_isr hj
  | retire hr => exact (hr.elim (hpoll _) (hpoll _)).elim
  | deviceReset hi' | coldReset hi' | restore hi' => exact absurd (by simp [MayEndService, Reinitialises, hi']) hi
  | _ => exact hj

/-- Of the other chip a poll read writes the requests and the service of P's line 2 alone (R196). -/
theorem polled_other {c' c : Chip} {j : Line} (s : State) (hc : c ≠ c')
    (hj : ¬ (c' = .secondary ∧ c = .primary ∧ j = 2)) :
    bit ((polled c' s).chip c).irr j = bit (s.chip c).irr j ∧
      bit ((polled c' s).chip c).isr j = bit (s.chip c).isr j := by
  rw [polled, setChip_chip_other _ _ _ _ hc]
  rcases pollRead_cases c' s with ⟨-, h⟩ | ⟨r, -, ⟨rfl, -, h⟩ | ⟨rfl, -, h⟩ | ⟨rfl, h⟩⟩ <;> rw [h]
  · exact ⟨rfl, rfl⟩
  · rw [setChip_chip_other _ _ _ _ hc]
    exact ⟨rfl, rfl⟩
  · cases c with
    | primary => exact absurd rfl hc
    | secondary =>
      simp only [updateAndRecompute, recomputeOutput, State.chip_secondary, recomputePrimary_secondary,
        setPrimary_secondary, and_self]
  · cases c with
    | primary =>
      have hj2 : j ≠ 2#3 := fun h2 => hj ⟨rfl, rfl, h2⟩
      simp [updateAndRecompute, recomputeOutput, recomputeSecondary_eq, wired, (latchLevel_spec _ _ _).irr j,
        Config.cascadeLine, hj2]
    | secondary => exact absurd rfl hc

theorem exec_rdPoll_chip {c' : Chip} {s t : State} (h : exec (.rdPoll c') s = .next t) (c : Chip) :
    t.chip c = (polled c' s).chip c := by
  rw [exec_rdPoll, Host.Outcome.next.injEq] at h
  rw [← h, emit_chip]

/-- Settles O56: a poll read is followed to the line it retires on either chip, and of the other operations no single
write but those named clears a bit of `isr`. -/
theorem serviceEndsOnlyByItsOperations : Obligations.ServiceEndsOnlyByItsOperations := by
  intro i s t c j h hs ht
  by_contra hi
  have hkept : bit (t.chip c).isr j = true := by
    by_cases hpoll : ∃ c', i = .rdPoll c'
    · obtain ⟨c', rfl⟩ := hpoll
      have hc : c ≠ c' := fun hc => hi (by simp [MayEndService, hc])
      have hj : ¬ (c' = .secondary ∧ c = .primary ∧ j = 2) := fun hj => hi (by simp [MayEndService, hj])
      rw [exec_rdPoll_chip h, (polled_other s hc hj).2, hs]
    · exact exec_keeps (fun k => bit k.isr j = true)
        (fun _ _ hw hk => hw.keeps_isr hi (not_exists.mp hpoll) hk) h hs
  rw [hkept] at ht
  cases ht

/-! ## The end of a request (60_exceptions.md R226) -/

/-- From `s` to `t` S's output came to be low on the wire to P's line 2, which is level-sensitive
(40_arbitration.md R113). -/
def ClearedByTheWire (s t : State) (c : Chip) (j : Line) : Prop :=
  c = .primary ∧ j = 2 ∧ bit s.primary.elcr 2 = true ∧ t.secondary.out = false

theorem ClearedByTheWire.mayClearRequest {i : Instr} {s t : State} {c : Chip} {j : Line}
    (h : ClearedByTheWire s t c j) (hi : RecomputesSecondary i s) : MayClearRequest i s t c j := by
  obtain ⟨hc, hj, helcr, hout⟩ := h
  exact .inr (.inr (.inr (.inr (.inl ⟨hc, hj, helcr, hi, hout⟩))))

/-- A write of registers and the recomputation after it clear a request only by the write, or by the wire. -/
theorem updateAndRecompute_clears_irr {c' c : Chip} {f : ChipState → ChipState} {s : State} {j : Line}
    (h : bit (s.chip c).irr j = true) (h' : bit ((updateAndRecompute c' f s).chip c).irr j = false) :
    (c' = c ∧ bit (f (s.chip c)).irr j = false) ∨
    (c' = .secondary ∧ ClearedByTheWire s (updateAndRecompute c' f s) c j) := by
  cases hset : bit ((s.setChip c' (f (s.chip c'))).chip c).irr j with
  | false =>
    by_cases hc : c = c'
    · subst hc; rw [setChip_chip] at hset; exact .inl ⟨rfl, hset⟩
    · rw [setChip_chip_other _ _ _ _ hc, h] at hset; cases hset
  | true =>
    obtain ⟨rfl, rfl, rfl, helcr, hout⟩ := recomputeOutput_clears_irr c' c _ j hset h'
    exact .inr ⟨rfl, rfl, rfl, helcr, hout⟩

/-- Of the writes of a register operation ICW1 clears a request, and the deassertion of its line, if that is
level-sensitive (41_request_lines.md R131). -/
theorem RegisterWrite.clears_irr {i : Instr} {c : Chip} {f : ChipState → ChipState} (h : RegisterWrite i c f)
    {k : ChipState} {j : Line} (hk : bit k.irr j = true) (hf : bit (f k).irr j = false) :
    Reinitialises i c ∨
      ∃ g, i = .setLevel g false ∧ globalChip g = c ∧ globalLocal g = j ∧ bit k.elcr j = true := by
  cases h with
  | icw1 _ val => exact .inl (.inl ⟨val, rfl⟩)
  | setLevel g level =>
    rw [(latchLevel_spec _ _ _).irr j] at hf
    by_cases hj : j = globalLocal g
    · subst hj
      cases level <;> simp_all
    · rw [if_neg hj, hk] at hf; cases hf
  | _ => simp_all [loadOcw3, loadIcw4]

/-- An acknowledge clears the request of an edge-sensitive line (42_acknowledge.md R141), or by the wire. -/
theorem intack_clears_irr {c' c : Chip} {line j : Line} {s : State} (h : bit (s.chip c).irr j = true)
    (h' : bit ((intack c' line s).chip c).irr j = false) :
    bit (s.chip c).elcr j = false ∨ (c' = .secondary ∧ ClearedByTheWire s (intack c' line s) c j) := by
  refine (updateAndRecompute_clears_irr h h').imp_left fun ⟨_, hack⟩ => ?_
  rw [(ackLine_spec line _).irr j] at hack
  by_cases hj : j = line
  · subst hj
    cases helcr : bit (s.chip c).elcr j <;> simp_all
  · rw [if_neg hj, h] at hack; cases hack

theorem intack_elcr (c' : Chip) (line : Line) (s : State) (c : Chip) :
    ((intack c' line s).chip c).elcr = (s.chip c).elcr := by
  rw [intack, updateAndRecompute_field ChipState.elcr (fun _ _ => rfl) fun _ _ => latchLevel_elcr _ _ _]
  split
  · rw [ackLine_elcr]; subst c; rfl
  · rfl

/-- INTA clears a request of an edge-sensitive line or, when it takes the cascade line, by the wire. -/
theorem resolveVector_clears_irr {c : Chip} {j : Line} {s : State} (h : bit (s.chip c).irr j = true)
    (h' : bit ((resolveVector s).2.chip c).irr j = false) :
    bit (s.chip c).elcr j = false ∨
      (RecomputesSecondary .inta s ∧ ClearedByTheWire s (resolveVector s).2 c j) := by
  rcases resolveVector_cases s with ⟨-, hv⟩ | ⟨hcascade, hv⟩ <;> rw [hv] at h' ⊢
  · obtain hedge | ⟨⟨⟩, -⟩ := intack_clears_irr h h'
    exact .inl hedge
  · cases hmid : bit ((intack .secondary (ackedLine .secondary s.secondary) s).chip c).irr j with
    | true =>
      obtain hedge | ⟨⟨⟩, -⟩ := intack_clears_irr hmid h'
      exact .inl (by rwa [intack_elcr] at hedge)
    | false =>
      obtain hedge | ⟨-, hc, hj, helcr, hout⟩ := intack_clears_irr h hmid
      · exact .inl hedge
      · exact .inr ⟨presented_of_ackedLine hcascade, hc, hj, helcr, by rw [intack_primary_secondary, hout]⟩

/-- Settles O57: a write of registers clears a request by ICW1 or a deassertion, INTA that of an edge-sensitive line, a
poll read those of the line it retires; every other way is the wire at a recomputation of S. -/
theorem requestsAreClearedOnlyByTheirOperations : Obligations.RequestsAreClearedOnlyByTheirOperations := by
  intro i s t c j h hs ht
  obtain ⟨F, hF, rfl⟩ := acts_of_exec h
  have hchanged : ((F s).chip c).irr ≠ (s.chip c).irr := fun hk => by rw [hk, hs] at ht; cases ht
  cases hF with
  | write hw =>
    obtain ⟨rfl, hclear⟩ | ⟨rfl, hwire⟩ := updateAndRecompute_clears_irr hs ht
    · obtain hreinit | hdeassert := hw.clears_irr hs hclear
      · exact .inr (.inr (.inr (.inr (.inr hreinit))))
      · exact .inr (.inr (.inr (.inl hdeassert)))
    · exact hwire.mayClearRequest (hw.recomputesSecondary s)
  | wrElcr c' => exact (hchanged (setChip_field ChipState.irr (by rfl) c)).elim
  | read => exact absurd (by rw [emit_chip]) hchanged
  | rdPoll c' =>
    by_cases hc : c = c'
    · exact .inr (.inl (by rw [hc]))
    by_cases hj : c' = .secondary ∧ c = .primary ∧ j = 2
    · exact .inr (.inr (.inl ⟨by rw [hj.1], hj.2⟩))
    · rw [emit_chip, (polled_other s hc hj).1, hs] at ht
      cases ht
  | inta =>
    rw [emit_chip] at ht
    obtain hedge | ⟨hi, hwire⟩ := resolveVector_clears_irr hs ht
    · exact .inl ⟨rfl, hedge⟩
    · exact ClearedByTheWire.mayClearRequest hwire hi
  | deviceReset | coldReset | snapRestore => simp [MayClearRequest, Reinitialises]
  | snapSave => exact absurd (by cases c <;> rfl) hchanged
  | fatal => exact absurd (by rw [raiseFatal_chip]) hchanged
  | refused => exact absurd (by rw [refuse_chip]) hchanged

/-! ## The global priority order (60_exceptions.md R227) -/

/-- With no rotation and nothing in service a chip presents its lowest requesting line. -/
theorem presented_of_lowest {c : Chip} {k : ChipState} {r : Line} (hbase : k.priorityAdd = 0) (hisr : k.isr = 0)
    (hr : Requesting k r) (hlowest : ∀ q, Requesting k q → r.toNat ≤ q.toNat) : Presented c k r := by
  have hrank : ∀ q, rank k.priorityAdd q = q.toNat := fun q => by rw [hbase, rank, sub_zero]
  refine ⟨hr, fun q hq => ?_, fun q ⟨hservice, _⟩ => ?_⟩
  · rw [hrank, hrank]
    exact hlowest q hq
  · rw [hisr] at hservice
    exact absurd (bit_zero q ▸ hservice) Bool.false_ne_true

/-- Line `q` of chip `c` as a global line (00_scope.md R8). -/
def globalLine (c : Chip) (q : Line) : GlobalLine := BitVec.ofNat 4 (if c = .primary then q.toNat else 8 + q.toNat)

theorem globalChip_globalLine (c : Chip) (q : Line) : globalChip (globalLine c q) = c := by
  cases c <;> revert q <;> decide

theorem globalLocal_globalLine (c : Chip) (q : Line) : globalLocal (globalLine c q) = q := by
  cases c <;> revert q <;> decide

theorem globalRequest_iff (s : State) (g : GlobalLine) :
    globalRequest s g = true ↔ g ≠ 2 ∧ Requesting (s.chip (globalChip g)) (globalLocal g) := by
  simp only [globalRequest, Requesting, Bool.and_eq_true, bne_iff_ne, Bool.not_eq_true', and_assoc]

/-- The first element of a list with a property stands no later than any other with it. -/
theorem idxOf_le_of_find? {α : Type} [BEq α] [LawfulBEq α] {l : List α} {p : α → Bool} {g h : α}
    (hg : l.find? p = some g) (hh : p h = true) : l.idxOf g ≤ l.idxOf h := by
  induction l with
  | nil => cases hg
  | cons x xs ih =>
    cases hx : p x with
    | true =>
      rw [List.find?_cons_of_pos hx, Option.some.injEq] at hg
      rw [hg, List.idxOf_cons_self]
      exact Nat.zero_le _
    | false =>
      have hne : ∀ y, p y = true → x ≠ y := fun y hy hxy => by rw [hxy, hy] at hx; cases hx
      rw [List.find?_cons_of_neg (by rw [hx]; exact Bool.false_ne_true)] at hg
      rw [List.idxOf_cons_ne _ (hne g (List.find?_some hg)), List.idxOf_cons_ne _ (hne h hh)]
      exact Nat.succ_le_succ (ih hg)

/-- The first request of the global order stands no later than any other line of either chip that requests. -/
theorem idxOf_le_of_requesting {s : State} {g : GlobalLine} (hg : globalOrder.find? (globalRequest s) = some g)
    {c : Chip} {q : Line} (hline : globalLine c q ≠ 2) (hq : Requesting (s.chip c) q) :
    globalOrder.idxOf g ≤ globalOrder.idxOf (globalLine c q) := by
  refine idxOf_le_of_find? hg ((globalRequest_iff s _).mpr ⟨hline, ?_⟩)
  rwa [globalChip_globalLine, globalLocal_globalLine]

/-- Within a chip the order is that of the lines, the cascade line apart. -/
theorem globalLocal_le_of_idxOf_le {g : GlobalLine} {q : Line} (hg : g ≠ 2) (hq : globalLine (globalChip g) q ≠ 2)
    (h : globalOrder.idxOf g ≤ globalOrder.idxOf (globalLine (globalChip g) q)) :
    (globalLocal g).toNat ≤ q.toNat := by
  revert g q; decide

theorem globalLine_ne_two (c : Chip) {q : Line} (hq : q ≠ 2) : globalLine c q ≠ 2 := fun h =>
  hq (by rw [← globalLocal_globalLine c q, h]; rfl)

theorem globalLine_secondary_ne (q : Line) : globalLine .secondary q ≠ 2 := fun h =>
  absurd (globalChip_globalLine .secondary q) (by rw [h]; decide)

theorem globalLocal_ne_two {g : GlobalLine} (hchip : globalChip g = .primary) (hg : g ≠ 2) : globalLocal g ≠ 2 := by
  revert g; decide

/-- A line of P that stands before a line of S is before the cascade line. -/
theorem globalLocal_le_two {g : GlobalLine} {q : Line} (hg : g ≠ 2) (hchip : globalChip g = .primary)
    (h : globalOrder.idxOf g ≤ globalOrder.idxOf (globalLine .secondary q)) : (globalLocal g).toNat ≤ 2 := by
  revert g q; decide

/-- A line of P that a line of S stands before is after the cascade line. -/
theorem two_le_of_idxOf_le {g : GlobalLine} {q : Line} (hchip : globalChip g = .secondary) (hq : q ≠ 2)
    (h : globalOrder.idxOf g ≤ globalOrder.idxOf (globalLine .primary q)) : 2 ≤ q.toNat := by
  revert g q; decide


/-- The first request of the global order, when it is one of P, is the line P presents: the wire to P's line 2 shows
requests of S alone, and those that stand before it are lines 0 and 1. -/
theorem presented_of_first_primary {s : State} {g : GlobalLine} (hbase : s.primary.priorityAdd = 0)
    (hisr : s.primary.isr = 0) (hwire : Requesting s.primary 2 ↔ ∃ q, Requesting s.secondary q)
    (hg : globalOrder.find? (globalRequest s) = some g) (hchip : globalChip g = .primary) :
    Presented .primary s.primary (globalLocal g) := by
  obtain ⟨hg2, hreq⟩ := (globalRequest_iff s g).mp (List.find?_some hg)
  rw [hchip] at hreq
  refine presented_of_lowest hbase hisr hreq fun q hq => ?_
  by_cases hq2 : q = 2
  · subst hq2
    obtain ⟨q', hq'⟩ := hwire.mp hq
    exact globalLocal_le_two hg2 hchip (idxOf_le_of_requesting hg (c := .secondary) (globalLine_secondary_ne q') hq')
  · have hline := globalLine_ne_two .primary hq2
    exact globalLocal_le_of_idxOf_le hg2 (by rwa [hchip]) (by rw [hchip]; exact idxOf_le_of_requesting hg hline hq)

/-- The first request of the global order, when it is one of S, is the line S presents, and P presents the cascade
line: of P's lines only 0 and 1 stand before it. -/
theorem presented_of_first_secondary {s : State} {g : GlobalLine} (hbaseP : s.primary.priorityAdd = 0)
    (hbaseS : s.secondary.priorityAdd = 0) (hisrP : s.primary.isr = 0) (hisrS : s.secondary.isr = 0)
    (hwire : Requesting s.primary 2 ↔ ∃ q, Requesting s.secondary q)
    (hg : globalOrder.find? (globalRequest s) = some g) (hchip : globalChip g = .secondary) :
    Presented .secondary s.secondary (globalLocal g) ∧ Presented .primary s.primary 2 := by
  obtain ⟨hg2, hreq⟩ := (globalRequest_iff s g).mp (List.find?_some hg)
  rw [hchip] at hreq
  constructor
  · refine presented_of_lowest hbaseS hisrS hreq fun q hq => ?_
    have hline := globalLine_secondary_ne q
    exact globalLocal_le_of_idxOf_le hg2 (by rwa [hchip]) (by rw [hchip]; exact idxOf_le_of_requesting hg hline hq)
  · refine presented_of_lowest hbaseP hisrP (hwire.mpr ⟨_, hreq⟩) fun q hq => ?_
    by_cases hq2 : q = 2
    · rw [hq2]
    · exact two_le_of_idxOf_le hchip hq2 (idxOf_le_of_requesting hg (globalLine_ne_two .primary hq2) hq)

/-- Settles O10: the first request of the global order is the line INTA takes, on P or through the cascade line. -/
theorem globalPriorityOrder : Obligations.GlobalPriorityOrder := by
  intro s g hbaseP hbaseS hisrP hisrS hwire hg
  rw [← globalLocal_toNat]
  cases hchip : globalChip g with
  | primary =>
    have hpresented := presented_of_first_primary hbaseP hisrP hwire hg hchip
    have hne : globalLocal g ≠ 2 := globalLocal_ne_two hchip ((globalRequest_iff s g).mp (List.find?_some hg)).1
    have hresolved := resolveVector_of_primaryLine (ackedLine_eq (.inl hpresented)) hne
    exact ⟨_, exec_inta_of_resolveVector hresolved, List.getLast?_concat⟩
  | secondary =>
    obtain ⟨hpresented, hcascade⟩ := presented_of_first_secondary hbaseP hbaseS hisrP hisrS hwire hg hchip
    have hresolved := resolveVector_of_cascadeLine (ackedLine_eq (.inl hcascade)) (ackedLine_eq (.inl hpresented))
    exact ⟨_, exec_inta_of_resolveVector hresolved, List.getLast?_concat⟩

/-! ## The order of device calls (60_exceptions.md R228) -/

/-- The chip with its output at the level the arbiter gives (40_arbitration.md R112). -/
def withOutput (c : Chip) (k : ChipState) : ChipState := { k with out := presents c k }

/-- What is latched and recomputed does not depend on the output before. -/
theorem withOutput_latchLevel (c : Chip) (i : Line) (b : Bool) (k : ChipState) :
    withOutput c (latchLevel i b (withOutput c k)) = withOutput c (latchLevel i b k) :=
  (congrArg (withOutput c) (latchLevel_with_out i b (presents c k) k)).trans rfl

theorem presents_latchLevel_withOutput (c : Chip) (i : Line) (b : Bool) (k : ChipState) :
    presents c (latchLevel i b (withOutput c k)) = presents c (latchLevel i b k) := by
  rw [withOutput, latchLevel_with_out, presents_out]

/-- A level on a line of P leaves S alone. -/
theorem setLevelLocal_primary (i : Line) (b : Bool) (s : State) :
    (setLevelLocal .primary i b s).primary = withOutput .primary (latchLevel i b s.primary) ∧
      (setLevelLocal .primary i b s).secondary = s.secondary := by
  simp only [setLevelLocal, recomputeOutput, recomputePrimary_eq, setPrimary_primary, setPrimary_secondary,
    State.chip_primary, withOutput, and_self]

/-- A level on a line of S gives P's line 2 the level of S's output. -/
theorem setLevelLocal_secondary (i : Line) (b : Bool) (s : State) :
    (setLevelLocal .secondary i b s).primary =
        withOutput .primary (latchLevel 2 (presents .secondary (latchLevel i b s.secondary)) s.primary) ∧
      (setLevelLocal .secondary i b s).secondary = withOutput .secondary (latchLevel i b s.secondary) := by
  simp only [setLevelLocal, recomputeOutput, recomputeSecondary_eq, setSecondary_primary, setSecondary_secondary,
    State.chip_secondary, withOutput, wired, Config.cascadeLine, and_self]

/-- Two levels on lines of P, in either order. -/
theorem setLevelLocal_primary_comm {i j : Line} (a b : Bool) (s : State) (h : i ≠ j) :
    SameChips (setLevelLocal .primary j b (setLevelLocal .primary i a s))
      (setLevelLocal .primary i a (setLevelLocal .primary j b s)) := by
  constructor
  · simp only [setLevelLocal_primary, withOutput_latchLevel, latchLevel_comm i j a b _ h]
  · simp only [setLevelLocal_primary]

/-- A level on a line of P other than the cascade line and one on a line of S, in either order. -/
theorem setLevelLocal_comm {i : Line} (j : Line) (a b : Bool) (s : State) (h : i ≠ 2) :
    SameChips (setLevelLocal .secondary j b (setLevelLocal .primary i a s))
      (setLevelLocal .primary i a (setLevelLocal .secondary j b s)) := by
  constructor
  · simp only [setLevelLocal_primary, setLevelLocal_secondary, withOutput_latchLevel, latchLevel_comm i 2 a _ _ h]
  · simp only [setLevelLocal_primary, setLevelLocal_secondary]

/-! ### Two lines of S: the edge on the wire (41_request_lines.md R131) -/

/-- Two levels on lines of S leave S the same in either order. -/
theorem setLevelLocal_secondary_comm {i j : Line} (a b : Bool) (s : State) (h : i ≠ j) :
    (setLevelLocal .secondary j b (setLevelLocal .secondary i a s)).secondary =
      (setLevelLocal .secondary i a (setLevelLocal .secondary j b s)).secondary := by
  simp only [setLevelLocal_secondary, withOutput_latchLevel, latchLevel_comm i j a b _ h]

/-- P after two levels on lines of S: its line 2 was given what S presents after the first and after both. -/
theorem setLevelLocal_twice_primary (i j : Line) (a b : Bool) (s : State) :
    (setLevelLocal .secondary j b (setLevelLocal .secondary i a s)).primary =
      withOutput .primary (latchLevel 2 (presents .secondary (latchLevel j b (latchLevel i a s.secondary)))
        (latchLevel 2 (presents .secondary (latchLevel i a s.secondary)) s.primary)) := by
  simp only [setLevelLocal_secondary, withOutput_latchLevel, presents_latchLevel_withOutput]

/-- A line at the level `last` that is given `w₁` and then `w` shows a rising edge. -/
def risesIn (last w₁ w : Bool) : Bool := (w₁ && !last) || (w && !w₁)

/-- Two levels in a row leave the second in `last_irr`, and in `irr` that level or a rising edge. -/
theorem latchLevel_latchLevel (i : Line) (w₁ w : Bool) (k : ChipState) :
    latchLevel i w (latchLevel i w₁ k) =
      { k with
        irr := setBit k.irr i (if bit k.elcr i then w else bit k.irr i || risesIn (bit k.lastIrr i) w₁ w)
        lastIrr := setBit k.lastIrr i w } := by
  have hself := setBit_self k.irr i
  unfold latchLevel risesIn
  cases he : bit k.elcr i <;> cases w₁ <;> cases w <;> cases bit k.lastIrr i <;> simp [he, hself]

/-- Where the first levels give the same edge, the line does not tell them apart. -/
theorem latchLevel_latchLevel_congr {i : Line} {w₁ w₂ w : Bool} {k : ChipState}
    (h : risesIn (bit k.lastIrr i) w₁ w = risesIn (bit k.lastIrr i) w₂ w) :
    latchLevel i w (latchLevel i w₁ k) = latchLevel i w (latchLevel i w₂ k) := by
  rw [latchLevel_latchLevel, latchLevel_latchLevel, h]

/-- Two assertions make at most one edge, and no level between them matters, if a line seen high was high. -/
theorem risesIn_of_rising {last w₀ w₁ w : Bool} (h₁ : w₀ = true → w₁ = true) (h : w₁ = true → w = true)
    (hlast : last = true → w₀ = true) : risesIn last w₁ w = (w && !last) := by
  revert last w₀ w₁ w; decide

/-- Two deassertions make no edge, if a line that was high was seen high. -/
theorem risesIn_of_falling {last w₀ w₁ w : Bool} (h₁ : w₁ = true → w₀ = true) (h : w = true → w₁ = true)
    (hlast : w₀ = true → last = true) : risesIn last w₁ w = false := by
  revert last w₀ w₁ w; decide

/-- The first of two levels on lines of S matters to P by the edge it gives the wire alone. -/
theorem setLevelLocal_twice_primary_comm {i j : Line} {a b : Bool} {s : State} {r : Bool} (h : i ≠ j)
    (hi : risesIn (bit s.primary.lastIrr 2) (presents .secondary (latchLevel i a s.secondary))
      (presents .secondary (latchLevel j b (latchLevel i a s.secondary))) = r)
    (hj : risesIn (bit s.primary.lastIrr 2) (presents .secondary (latchLevel j b s.secondary))
      (presents .secondary (latchLevel i a (latchLevel j b s.secondary))) = r) :
    (setLevelLocal .secondary j b (setLevelLocal .secondary i a s)).primary =
      (setLevelLocal .secondary i a (setLevelLocal .secondary j b s)).primary := by
  rw [latchLevel_comm i j a b _ h] at hi
  rw [setLevelLocal_twice_primary, setLevelLocal_twice_primary, latchLevel_comm i j a b _ h,
    latchLevel_latchLevel_congr (hi.trans hj.symm)]

/-- Two assertions on lines of S leave P the same in either order, if S presents a line where the wire was seen high. -/
theorem setLevelLocal_assert_comm {i j : Line} {s : State} (h : i ≠ j)
    (hlast : bit s.primary.lastIrr 2 = true → presents .secondary s.secondary = true) :
    (setLevelLocal .secondary j true (setLevelLocal .secondary i true s)).primary =
      (setLevelLocal .secondary i true (setLevelLocal .secondary j true s)).primary := by
  have hrises := fun k l : Line => risesIn_of_rising (presents_latchLevel_true .secondary k s.secondary)
    (presents_latchLevel_true .secondary l _) hlast
  refine setLevelLocal_twice_primary_comm h (hrises i j) ?_
  rw [latchLevel_comm i j true true _ h]
  exact hrises j i

/-- Two deassertions on lines of S leave P the same in either order, if the wire was seen high where S presents a
line. -/
theorem setLevelLocal_deassert_comm {i j : Line} {s : State} (h : i ≠ j)
    (hlast : presents .secondary s.secondary = true → bit s.primary.lastIrr 2 = true) :
    (setLevelLocal .secondary j false (setLevelLocal .secondary i false s)).primary =
      (setLevelLocal .secondary i false (setLevelLocal .secondary j false s)).primary := by
  have hrises := fun k l : Line => risesIn_of_falling (presents_of_latchLevel_false .secondary k s.secondary)
    (presents_of_latchLevel_false .secondary l _) hlast
  exact setLevelLocal_twice_primary_comm h (hrises i j) (hrises j i)

/-- The two chips differ in `irr` bit 2 and the output at most. -/
def SameButForTheWire (p p' : ChipState) : Prop :=
  p = { p' with irr := p.irr, out := p.out } ∧ ∀ q, q ≠ 2 → bit p.irr q = bit p'.irr q

theorem SameButForTheWire.of_eq {p p' : ChipState} (h : p = p') : SameButForTheWire p p' := by
  subst h
  exact ⟨rfl, fun _ _ => rfl⟩

/-- Two levels on lines of S leave P the same in either order, but for what an edge on the wire does. -/
theorem setLevelLocal_twice_sameButForTheWire {i j : Line} (a b : Bool) (s : State) (h : i ≠ j) :
    SameButForTheWire (setLevelLocal .secondary j b (setLevelLocal .secondary i a s)).primary
      (setLevelLocal .secondary i a (setLevelLocal .secondary j b s)).primary := by
  rw [setLevelLocal_twice_primary, setLevelLocal_twice_primary, latchLevel_comm i j a b _ h, latchLevel_latchLevel,
    latchLevel_latchLevel]
  refine ⟨rfl, fun q hq => ?_⟩
  simp only [withOutput, bit_setBit, if_neg hq]

/-! ### The operations -/

theorem presents_iff_presented (c : Chip) (k : ChipState) : presents c k = true ↔ ∃ r, Presented c k r := by
  rw [presents, Option.isSome_iff_exists]
  exact exists_congr fun r => ⟨presented_of_pendingIrq, pendingIrq_of_presented⟩

theorem globalLocal_ne_of_globalChip_eq {g h : GlobalLine} (hchip : globalChip g = globalChip h) (hgh : g ≠ h) :
    globalLocal g ≠ globalLocal h := by
  revert g h; decide

theorem globalChip_eq_primary_iff (g : GlobalLine) : globalChip g = .primary ↔ g.toNat < 8 := by
  revert g; decide

/-- Two device calls on different lines, of which one is P's, leave the chips the same in either order. -/
theorem setLevelLocal_sameChips_of_primary {g h : GlobalLine} (a b : Bool) (s : State) (hgh : g ≠ h) (hg : g ≠ 2)
    (hh : h ≠ 2) (hP : globalChip g = .primary ∨ globalChip h = .primary) :
    SameChips (setLevelLocal (globalChip g) (globalLocal g) a (setLevelLocal (globalChip h) (globalLocal h) b s))
      (setLevelLocal (globalChip h) (globalLocal h) b (setLevelLocal (globalChip g) (globalLocal g) a s)) := by
  cases hcg : globalChip g with
  | primary =>
    cases hch : globalChip h with
    | primary =>
      exact setLevelLocal_primary_comm b a s (globalLocal_ne_of_globalChip_eq (hch.trans hcg.symm) hgh.symm)
    | secondary =>
      obtain ⟨hp, hs⟩ := setLevelLocal_comm (globalLocal h) a b s (globalLocal_ne_two hcg hg)
      exact ⟨hp.symm, hs.symm⟩
  | secondary =>
    have hch : globalChip h = .primary := hP.resolve_left (by rw [hcg]; decide)
    rw [hch]
    exact setLevelLocal_comm (globalLocal g) b a s (globalLocal_ne_two hch hh)

/-- Settles O6: with a line of P the latches commute; with two of S the only trace of the order on P is an edge of the
wire, and the two conditions on what the wire was seen to show make it the same edge, or none. -/
theorem requestLinesCommuteButForTheWire : Obligations.RequestLinesCommuteButForTheWire := by
  intro g h a b s s1 s2 t1 t2 hgh hg hh hs1 ht1 hs2 ht2
  rw [exec_setLevel_of_ne _ _ _ hg, Host.Outcome.next.injEq] at hs1 ht2
  rw [exec_setLevel_of_ne _ _ _ hh, Host.Outcome.next.injEq] at hs2 ht1
  subst hs1 hs2 ht1 ht2
  by_cases hP : globalChip g = .primary ∨ globalChip h = .primary
  · obtain ⟨hp, hs⟩ := setLevelLocal_sameChips_of_primary a b s hgh hg hh hP
    exact ⟨hs, fun _ => hp, SameButForTheWire.of_eq hp, fun _ _ _ => hp, fun _ _ _ => hp⟩
  · rw [globalChip_eq_primary_iff, globalChip_eq_primary_iff] at hP
    have hcg : globalChip g = .secondary := by rw [globalChip_eq_ite, if_neg (not_or.mp hP).1]
    have hch : globalChip h = .secondary := by rw [globalChip_eq_ite, if_neg (not_or.mp hP).2]
    have hne := globalLocal_ne_of_globalChip_eq (hcg.trans hch.symm) hgh
    rw [hcg, hch]
    refine ⟨setLevelLocal_secondary_comm a b s hne, fun h8 => absurd h8 hP,
      setLevelLocal_twice_sameButForTheWire a b s hne, ?_, ?_⟩
    · rintro rfl rfl hlast
      exact setLevelLocal_assert_comm hne fun hhigh => (presents_iff_presented _ _).mpr (hlast hhigh)
    · rintro rfl rfl hlast
      refine setLevelLocal_deassert_comm hne fun hpresents => ?_
      obtain ⟨r, hr⟩ := (presents_iff_presented _ _).mp hpresents
      exact hlast r hr

end Sys2Proof.Machine
end

section
/-! SUPPORT. The reset and snapshot rules (70_reset_and_hazards.md): what a reset leaves of both chips; which payloads a
restore accepts and what it makes of them; and the life of a restored pair beside that of the pair it was saved from. -/

namespace Sys2Proof.Machine

/-! ## Resets (70_reset_and_hazards.md R251 to R253) -/

/-- A reset that leaves no request latched lowers both outputs, with one notice at most, and touches nothing else of the
pair (R253). -/
theorem resetWith_spec {f : ChipState → ChipState} (hf : ∀ k, (f k).irr = 0 ∧ (f k).lastIrr = 0 ∧ (f k).out = k.out)
    (s : State) :
    (resetWith f s).primary = { f s.primary with out := false } ∧
      (resetWith f s).secondary = { f s.secondary with out := false } ∧
      (resetWith f s).events = s.events ++ notices s.primary.out false ∧ SamePair s (resetWith f s) := by
  rw [resetWith_eq f s hf]
  exact ⟨rfl, rfl, rfl, rfl, rfl, rfl, rfl, rfl, rfl⟩

/-- Settles O31: the zeroed chips latch no request, so the two recomputations lower both outputs and do nothing else. -/
theorem deviceResetZeroesBothChips : Obligations.DeviceResetZeroesBothChips := by
  intro s
  obtain ⟨hP, hS, hevents, hpair⟩ := resetWith_spec (f := ChipState.zeroed) (fun _ => ⟨rfl, rfl, rfl⟩) s
  exact ⟨resetWith ChipState.zeroed s, hP, hS, hevents, hpair, rfl⟩

/-- Settles O32: as for a device reset, with `elcr` zeroed beside the rest. -/
theorem coldResetZeroesElcrToo : Obligations.ColdResetZeroesElcrToo := by
  intro s
  obtain ⟨hP, hS, hevents, hpair⟩ := resetWith_spec (f := ChipState.coldZeroed) (fun _ => ⟨rfl, rfl, rfl⟩) s
  exact ⟨resetWith ChipState.coldZeroed s, hP, hS, hevents, hpair, rfl⟩

/-! ## Images and chips (70_reset_and_hazards.md R256) -/

/-- No field is lost in the image of a chip. -/
theorem imageOfChip_injective : Function.Injective imageOfChip :=
  Function.LeftInverse.injective (g := chipOfImage) chipOfImage_imageOfChip

/-- Settles O33: the image determines both chips, and is what is handed out. -/
theorem snapSaveReturnsEveryField : Obligations.SnapSaveReturnsEveryField := by
  intro s
  refine ⟨imageOf s, fun u himage => ?_, rfl, rfl⟩
  obtain ⟨hP, hS⟩ := PairImage.mk.inj himage
  exact ⟨imageOfChip_injective hP, imageOfChip_injective hS⟩

theorem toNat_beq_one {n : Nat} (h : n < 2) : (n == 1).toNat = n := by
  revert n; decide

theorem initStateNat_initStateOf {n : Nat} (h : n < 4) : initStateNat ((initStateOf n).getD .normal) = n := by
  revert n; decide

/-- Numbers that fit their fields are kept by the chip read from them. -/
theorem imageOfChip_chipOfImage {m : ChipImage} (h : imageFits m = true) : imageOfChip (chipOfImage m) = m := by
  simp only [imageFits, Bool.and_eq_true, decide_eq_true_eq, and_assoc] at h
  obtain ⟨hirr, hlastIrr, himr, hisr, hpriorityAdd, hirqBase, hreadRegSelect, hpoll, hspecialMask, hautoEoi,
    hrotateOnAutoEoi, hsfnm, hsingleMode, hinit4, hinitState, helcr, helcrMask, hout⟩ := h
  simp [imageOfChip, chipOfImage, Nat.mod_eq_of_lt, toNat_beq_one, initStateNat_initStateOf, *]

/-! ## The checks of a restore (70_reset_and_hazards.md R257) -/

/-- Of the images of chips a restore accepts those with the constructed mask that meet the invariants. -/
theorem restorable_imageOfChip_iff (k k' : ChipState) :
    restorable k (imageOfChip k') = true ↔ k'.elcrMask = k.elcrMask ∧ ChipInv k' := by
  simp only [restorable, chipOfImage_imageOfChip, imageFits_imageOfChip, Bool.and_eq_true, beq_iff_eq, true_and]
  tauto

/-- A base with its low bits 0 is a multiple of 8. -/
theorem toNat_mod_eight_of_low {m : Byte} (h : m &&& 0x07 = 0) : m.toNat % 8 = 0 := by
  have hnat : m.toNat &&& 7 = 0 := by simpa using congrArg BitVec.toNat h
  rwa [Nat.and_two_pow_sub_one_eq_mod m.toNat 3] at hnat

/-- A register inside its mask has no bit that the mask lacks. -/
theorem testBit_of_and_not_eq_zero {m mask : Byte} (h : m &&& ~~~ mask = 0) {j : Nat}
    (hj : m.toNat.testBit j = true) : mask.toNat.testBit j = true := by
  rw [BitVec.testBit_toNat] at hj ⊢
  have hbit := congrArg (BitVec.getLsbD · j) h
  simpa [-BitVec.getLsbD_eq_getElem, hj, BitVec.lt_of_getLsbD hj] using hbit

/-- The image of a chip that has the constructed mask and meets the invariants fails none of the checks. -/
theorem not_badImage_imageOfChip {k k' : ChipState} (hmask : k'.elcrMask = k.elcrMask) (hinv : ChipInv k') :
    ¬ BadImage k (imageOfChip k') := by
  obtain ⟨hbase, helcr⟩ := hinv
  have hfits := imageFits_imageOfChip k'
  simp only [imageFits, Bool.and_eq_true, decide_eq_true_eq, and_assoc] at hfits
  have hbits : ¬ ∃ j, (imageOfChip k').elcr.testBit j = true ∧ (imageOfChip k').elcrMask.testBit j = false := by
    rintro ⟨j, hset, hclear⟩
    exact Bool.false_ne_true (hclear.symm.trans (testBit_of_and_not_eq_zero helcr hset))
  have hmaskNat : (imageOfChip k').elcrMask = k.elcrMask.toNat := congrArg BitVec.toNat hmask
  have hbaseNat : (imageOfChip k').irqBase % 8 = 0 := toNat_mod_eight_of_low hbase
  simp only [BadImage, hbits, false_or]
  omega

/-- What a restore accepts is the image of a chip, and so not bad. -/
theorem restorable_eq_false_of_badImage {k : ChipState} {m : ChipImage} (h : BadImage k m) :
    restorable k m = false := by
  refine Bool.eq_false_iff.mpr fun hm => ?_
  obtain ⟨hfits, hmask, hinv⟩ := restorable_spec k m hm
  have hgood := not_badImage_imageOfChip hmask hinv
  rw [imageOfChip_chipOfImage hfits] at hgood
  exact hgood h

theorem restoreImage_of_restorable {m : PairImage} {s : State} (hP : restorable s.primary m.primary = true)
    (hS : restorable s.secondary m.secondary = true) :
    restoreImage m s = { s with primary := chipOfImage m.primary, secondary := chipOfImage m.secondary } := by
  rw [restoreImage, hP, hS, Bool.and_self, if_pos rfl]

theorem restoreImage_of_not_restorable {m : PairImage} {s : State}
    (h : restorable s.primary m.primary = false ∨ restorable s.secondary m.secondary = false) :
    restoreImage m s = refuse .invalidSnapshot s := by
  rw [restoreImage, Bool.and_eq_false_iff.mpr h, if_neg Bool.false_ne_true]

/-- Settles O35: a chip's part of the payload that is bad fails the checks, which come before any write. -/
theorem snapRestoreRefusesBadImages : Obligations.SnapRestoreRefusesBadImages := by
  intro s hbad
  have hrefused : restoreImage s.payload s = refuse .invalidSnapshot s :=
    restoreImage_of_not_restorable (hbad.imp restorable_eq_false_of_badImage restorable_eq_false_of_badImage)
  exact ⟨refuse .invalidSnapshot s, refusedFor_refuse _ s, congrArg Host.Outcome.next hrefused⟩

/-- Settles O34: the images pass the checks, and each is read back as its chip. -/
theorem snapRestoreCopiesEveryField : Obligations.SnapRestoreCopiesEveryField := by
  intro s kP kS hinvP hinvS hmaskP hmaskS hpayload
  have hP : restorable s.primary s.payload.primary = true := by
    rw [hpayload]; exact (restorable_imageOfChip_iff _ _).mpr ⟨hmaskP, hinvP⟩
  have hS : restorable s.secondary s.payload.secondary = true := by
    rw [hpayload]; exact (restorable_imageOfChip_iff _ _).mpr ⟨hmaskS, hinvS⟩
  have hrestored : restoreImage s.payload s = { s with primary := kP, secondary := kS } := by
    rw [restoreImage_of_restorable hP hS, hpayload, chipOfImage_imageOfChip, chipOfImage_imageOfChip]
  exact congrArg Host.Outcome.next hrestored

/-! ## After a restore (70_reset_and_hazards.md R258) -/

theorem execAll_cons {i : Instr} {s t : State} (h : exec i s = .next t) (is : List Instr) :
    execAll (i :: is) s = execAll is t := by
  simp only [execAll, h]

/-- Pairs with the same chips stay so, and show the host the same, through any operations that take no payload. -/
theorem execAll_sameEffect {is : List Instr} (hrestore : ∀ i ∈ is, i ≠ .snapRestore) {s u : State}
    (h : SameChips s u) : SameEffect s u (execAll is s) (execAll is u) := by
  induction is generalizing s u with
  | nil => exact .refl h
  | cons i is ih =>
    obtain ⟨hi, his⟩ := List.forall_mem_cons.mp hrestore
    obtain ⟨F, hF, hexec⟩ := exec_acts i
    have hhead : SameEffect s u (F s) (F u) := acts_sameEffect hF h fun heq => absurd heq hi
    rw [execAll_cons (hexec s), execAll_cons (hexec u)]
    exact hhead.trans (ih his hhead.chips)

/-- Settles O36: the restored pair has the chips of the saved one, and the chips alone decide what the operations after
it do and show. -/
theorem snapshotRoundTripPreservesBehaviour : Obligations.SnapshotRoundTripPreservesBehaviour := by
  intro s u ⟨hinvP, hinvS, _⟩ hmaskP hmaskS hpayload
  have hrestored : exec .snapRestore u = .next { u with primary := s.primary, secondary := s.secondary } :=
    snapRestoreCopiesEveryField u s.primary s.secondary hinvP hinvS hmaskP.symm hmaskS.symm hpayload
  refine ⟨_, hrestored, rfl, rfl, rfl, fun is his => ?_⟩
  obtain ⟨hchips, es, rs, ss, hs, hv⟩ :=
    execAll_sameEffect his (s := s) (u := { u with primary := s.primary, secondary := s.secondary }) ⟨rfl, rfl⟩
  exact ⟨hchips.primary, hchips.secondary, es, hs.events, hv.events⟩

end Sys2Proof.Machine
end
